-- ==== Sys2Proof/Word.lean ====
section
/-! DEFINITION. The two word types of the machine: bytes (register contents and memory cells) and
16-bit addresses (`00_scope.md` R7). Their helpers stand in `Decode.lean` and `Machine/Ops.lean`. -/

namespace Sys2Proof

/-- An 8-bit value: a register, a memory cell, a byte of an instruction (R7, R50). -/
abbrev Byte := BitVec 8

/-- A 16-bit value: an address or the program counter. Its arithmetic wraps modulo 65536 (R7, R51). -/
abbrev Addr := BitVec 16

end Sys2Proof
end

