-- ==== Sys2Proof/Config.lean ====
section
/-! DEFINITION. What the spec leaves open (`00_scope.md` R8, `93_implementation_defined.md`): the named
parameters as constants with no body, so that nothing can be proved about their values, and the free
values an instruction leaves behind. The one decided parameter, `IRQ_VECTOR`, has its value. -/

namespace Sys2Proof.Config

/-- `UNDEF_BASE_CYCLES` (R8, D3, U4): the cycles one undefined opcode adds to the counter. Open. -/
opaque undefBaseCycles : Nat

/-- `JMP_IND_PAGE_WRAP` (R8, R93, D9, U1): true when `JMP (ptr)` with a pointer at the end of a page
takes its high byte from the start of the same page. Open. -/
opaque jmpIndPageWrap : Bool

/-- `BATCH_QUOTA` less one, so that the quota itself is at least 1 whatever this number is. Open. -/
opaque batchQuotaPred : Nat

/-- `BATCH_QUOTA` (R8, R298, U8): the cycle quota of one scheduler batch, a natural number `≥ 1`. -/
def batchQuota : Nat := batchQuotaPred + 1

/-- The text behind `UNDEF_MNEMONIC` (R8, R233, D4, U6), before it is kept apart from the real
mnemonics (`undefMnemonic` in `Machine/Disassembler.lean`). Open. -/
opaque undefMnemonicText : String

/-- `BYTE_DIRECTIVE` (R8, R256, D25, U7): the keyword of the assembler's byte-literal directive. Open. -/
opaque byteDirective : String

/-- `IRQ_VECTOR` (R8, R58, D5): where BRK loads the program counter from, low byte here and high byte
at the next address. Decided by the spec. -/
def irqVector : Addr := 0xFFFE

/-- Free bits: the values the spec leaves unspecified after a decimal ADC or SBC (U2, U3). The index is
the machine's own counter `State.freeCtr`, advanced past every bit taken, so that no two draws are the
same draw. -/
opaque freeBit : Nat → Bool

/-- Free bytes: the accumulator after a decimal ADC or SBC on an operand that is not packed BCD (U3). -/
opaque freeByte : Nat → Byte

end Sys2Proof.Config
end

