-- ==== Sys2Proof/Syntax/Operand.lean ====
section
/-! DEFINITION. The names the spec gives the parts of an instruction: the 56 mnemonics and the
pseudo-entry `UND` (R100), the 13 addressing modes (R19), the 12 slots of an opcode group (R18, R102),
and the operand forms that the instructions share. -/

namespace Sys2Proof

/-- The 56 documented mnemonics and `UND`, the entry of every undefined opcode (R100). -/
inductive Mnemonic where
  | LDA | LDX | LDY | STA | STX | STY | TAX | TAY | TXA | TYA | TSX | TXS
  | ADC | SBC | CMP | CPX | CPY | INC | INX | INY | DEC | DEX | DEY
  | AND | ORA | EOR | BIT | ASL | LSR | ROL | ROR
  | JMP | JSR | RTS | BCC | BCS | BEQ | BNE | BMI | BPL | BVC | BVS
  | PHA | PLA | PHP | PLP | CLC | SEC | CLI | SEI | CLD | SED | CLV
  | BRK | RTI | NOP | UND
  deriving DecidableEq, Repr

/-- The 13 addressing modes (R19). -/
inductive Mode where
  | IMP | ACC | IMM | ZP | ZPX | ZPY | ABS | ABSX | ABSY | IND | INDX | INDY | REL
  deriving DecidableEq, Repr

/-- The 12 slots of an opcode group: `SNGL` is shared by the modes IMP and ACC, `BRA` is the relative
mode's (R18, R19, R102). -/
inductive Slot where
  | IMM | ZP | ZPX | ZPY | ABS | ABSX | ABSY | IND | INDX | INDY | SNGL | BRA
  deriving DecidableEq, Repr

/-- An operand in memory, by addressing mode, with the operand bytes as read (R83, R87 to R95). -/
inductive MemOperand where
  | zp   (a : Byte)
  | zpx  (b : Byte)
  | zpy  (b : Byte)
  | abs  (a : Addr)
  | absx (b : Addr)
  | absy (b : Addr)
  | indx (b : Byte)
  | indy (b : Byte)
  deriving DecidableEq, Repr

/-- An operand that is only read: an immediate byte or a byte of memory (R86, R120). -/
inductive ReadOperand where
  | imm (v : Byte)
  | mem (m : MemOperand)
  deriving DecidableEq, Repr

/-- The operand of a shift or rotate: the accumulator or a byte of memory (R85, `42_logic_shift.md` section 3). -/
inductive ShiftOperand where
  | acc
  | mem (m : MemOperand)
  deriving DecidableEq, Repr

/-- The operand of JMP: a target, or a pointer to the target (R180). -/
inductive JumpOperand where
  | abs (a : Addr)
  | ind (ptr : Addr)
  deriving DecidableEq, Repr

/-- The addressing mode of a memory operand. -/
def MemOperand.mode : MemOperand → Mode
  | .zp _ => .ZP
  | .zpx _ => .ZPX
  | .zpy _ => .ZPY
  | .abs _ => .ABS
  | .absx _ => .ABSX
  | .absy _ => .ABSY
  | .indx _ => .INDX
  | .indy _ => .INDY

/-- The addressing mode of a read operand. -/
def ReadOperand.mode : ReadOperand → Mode
  | .imm _ => .IMM
  | .mem m => m.mode

/-- The addressing mode of a shift's operand. -/
def ShiftOperand.mode : ShiftOperand → Mode
  | .acc => .ACC
  | .mem m => m.mode

/-- The addressing mode of a jump's operand. -/
def JumpOperand.mode : JumpOperand → Mode
  | .abs _ => .ABS
  | .ind _ => .IND

end Sys2Proof
end

