-- ==== Sys2Proof/Syntax.lean ====
section
/-! DEFINITION. The instructions: one constructor for each of the 57 mnemonics of `spec/opcode_table.json`
(R100), carrying its operand form; the rows of one mnemonic are that constructor's operand forms. -/

namespace Sys2Proof

/-- An instruction with its operand. Which operand forms an instruction really has is `Instr.wellFormed`. -/
inductive Instr where
  -- loads (`40_load_store_transfer.md` R121 to R123)
  | lda (o : ReadOperand)
  | ldx (o : ReadOperand)
  | ldy (o : ReadOperand)
  -- stores (R124 to R126)
  | sta (m : MemOperand)
  | stx (m : MemOperand)
  | sty (m : MemOperand)
  -- register transfers (R127 to R132)
  | tax
  | tay
  | txa
  | tya
  | tsx
  | txs
  -- add, subtract, compare (`41_arithmetic.md` R140 to R146)
  | adc (o : ReadOperand)
  | sbc (o : ReadOperand)
  | cmp (o : ReadOperand)
  | cpx (o : ReadOperand)
  | cpy (o : ReadOperand)
  -- increment and decrement (R147 to R152)
  | inc (m : MemOperand)
  | inx
  | iny
  | dec (m : MemOperand)
  | dex
  | dey
  -- logic and bit test (`42_logic_shift.md` R160 to R163)
  | and (o : ReadOperand)
  | ora (o : ReadOperand)
  | eor (o : ReadOperand)
  | bit (m : MemOperand)
  -- shifts and rotates (R164 to R167)
  | asl (o : ShiftOperand)
  | lsr (o : ShiftOperand)
  | rol (o : ShiftOperand)
  | ror (o : ShiftOperand)
  -- jumps and subroutines (`43_control_flow.md` R180 to R182)
  | jmp (o : JumpOperand)
  | jsr (target : Addr)
  | rts
  -- conditional branches, with the signed offset byte (R183 to R191)
  | bcc (off : Byte)
  | bcs (off : Byte)
  | beq (off : Byte)
  | bne (off : Byte)
  | bmi (off : Byte)
  | bpl (off : Byte)
  | bvc (off : Byte)
  | bvs (off : Byte)
  -- stack (`44_stack_flags.md` R200 to R203)
  | pha
  | pla
  | php
  | plp
  -- flags (R204 to R210)
  | clc
  | sec
  | cli
  | sei
  | cld
  | sed
  | clv
  -- system (`45_system.md` R220 to R222)
  | brk
  | rti
  | nop
  -- any of the 105 undefined opcodes, with its byte (R103, R223)
  | und (op : Byte)
  deriving DecidableEq, Repr

/-- The mnemonic of an instruction, as the opcode table spells it. -/
def Instr.mnemonic : Instr → Mnemonic
  | .lda _ => .LDA
  | .ldx _ => .LDX
  | .ldy _ => .LDY
  | .sta _ => .STA
  | .stx _ => .STX
  | .sty _ => .STY
  | .tax => .TAX
  | .tay => .TAY
  | .txa => .TXA
  | .tya => .TYA
  | .tsx => .TSX
  | .txs => .TXS
  | .adc _ => .ADC
  | .sbc _ => .SBC
  | .cmp _ => .CMP
  | .cpx _ => .CPX
  | .cpy _ => .CPY
  | .inc _ => .INC
  | .inx => .INX
  | .iny => .INY
  | .dec _ => .DEC
  | .dex => .DEX
  | .dey => .DEY
  | .and _ => .AND
  | .ora _ => .ORA
  | .eor _ => .EOR
  | .bit _ => .BIT
  | .asl _ => .ASL
  | .lsr _ => .LSR
  | .rol _ => .ROL
  | .ror _ => .ROR
  | .jmp _ => .JMP
  | .jsr _ => .JSR
  | .rts => .RTS
  | .bcc _ => .BCC
  | .bcs _ => .BCS
  | .beq _ => .BEQ
  | .bne _ => .BNE
  | .bmi _ => .BMI
  | .bpl _ => .BPL
  | .bvc _ => .BVC
  | .bvs _ => .BVS
  | .pha => .PHA
  | .pla => .PLA
  | .php => .PHP
  | .plp => .PLP
  | .clc => .CLC
  | .sec => .SEC
  | .cli => .CLI
  | .sei => .SEI
  | .cld => .CLD
  | .sed => .SED
  | .clv => .CLV
  | .brk => .BRK
  | .rti => .RTI
  | .nop => .NOP
  | .und _ => .UND

/-- The addressing mode of an instruction (R19, R101). -/
def Instr.mode : Instr → Mode
  | .lda o => o.mode
  | .ldx o => o.mode
  | .ldy o => o.mode
  | .sta m => m.mode
  | .stx m => m.mode
  | .sty m => m.mode
  | .tax => .IMP
  | .tay => .IMP
  | .txa => .IMP
  | .tya => .IMP
  | .tsx => .IMP
  | .txs => .IMP
  | .adc o => o.mode
  | .sbc o => o.mode
  | .cmp o => o.mode
  | .cpx o => o.mode
  | .cpy o => o.mode
  | .inc m => m.mode
  | .inx => .IMP
  | .iny => .IMP
  | .dec m => m.mode
  | .dex => .IMP
  | .dey => .IMP
  | .and o => o.mode
  | .ora o => o.mode
  | .eor o => o.mode
  | .bit m => m.mode
  | .asl o => o.mode
  | .lsr o => o.mode
  | .rol o => o.mode
  | .ror o => o.mode
  | .jmp o => o.mode
  | .jsr _ => .ABS
  | .rts => .IMP
  | .bcc _ => .REL
  | .bcs _ => .REL
  | .beq _ => .REL
  | .bne _ => .REL
  | .bmi _ => .REL
  | .bpl _ => .REL
  | .bvc _ => .REL
  | .bvs _ => .REL
  | .pha => .IMP
  | .pla => .IMP
  | .php => .IMP
  | .plp => .IMP
  | .clc => .IMP
  | .sec => .IMP
  | .cli => .IMP
  | .sei => .IMP
  | .cld => .IMP
  | .sed => .IMP
  | .clv => .IMP
  | .brk => .IMP
  | .rti => .IMP
  | .nop => .IMP
  | .und _ => .IMP

end Sys2Proof
end

