-- ==== Sys2Proof/WellFormed.lean ====
section
/-! DEFINITION. Which instructions exist. An instruction is well formed when its addressing mode is one
its mnemonic's opcode group supports (R102, U10) and, for an undefined opcode, when its byte is one of
the 105 the spec lists (R103). Operand bytes are unconstrained (R104). -/

namespace Sys2Proof

/-- The modes in which each mnemonic has an opcode: the slots of R102 that are not "unsupported". -/
def Mnemonic.modes : Mnemonic → List Mode
  | .LDA | .ADC | .SBC | .CMP | .AND | .ORA | .EOR => [.IMM, .ZP, .ZPX, .ABS, .ABSX, .ABSY, .INDX, .INDY]
  | .LDX => [.IMM, .ZP, .ZPY, .ABS, .ABSY]
  | .LDY => [.IMM, .ZP, .ZPX, .ABS, .ABSX]
  | .STA => [.ZP, .ZPX, .ABS, .ABSX, .ABSY, .INDX, .INDY]
  | .STX => [.ZP, .ZPY, .ABS]
  | .STY => [.ZP, .ZPX, .ABS]
  | .CPX | .CPY => [.IMM, .ZP, .ABS]
  | .INC | .DEC => [.ZP, .ZPX, .ABS, .ABSX]
  | .BIT => [.ZP, .ABS]
  | .ASL | .LSR | .ROL | .ROR => [.ACC, .ZP, .ZPX, .ABS, .ABSX]
  | .JMP => [.ABS, .IND]
  | .JSR => [.ABS]
  | .BCC | .BCS | .BEQ | .BNE | .BMI | .BPL | .BVC | .BVS => [.REL]
  | .TAX | .TAY | .TXA | .TYA | .TSX | .TXS | .INX | .INY | .DEX | .DEY | .RTS
  | .PHA | .PLA | .PHP | .PLP | .CLC | .SEC | .CLI | .SEI | .CLD | .SED | .CLV
  | .BRK | .RTI | .NOP | .UND => [.IMP]

/-- The 105 undefined opcode bytes, as R103 lists them. -/
def undefinedOpcodes : List Byte :=
  [0x02, 0x03, 0x04, 0x07, 0x0B, 0x0C, 0x0F, 0x12, 0x13, 0x14, 0x17, 0x1A, 0x1B, 0x1C, 0x1F, 0x22, 0x23, 0x27, 0x2B] ++
  [0x2F, 0x32, 0x33, 0x34, 0x37, 0x3A, 0x3B, 0x3C, 0x3F, 0x42, 0x43, 0x44, 0x47, 0x4B, 0x4F, 0x52, 0x53, 0x54, 0x57] ++
  [0x5A, 0x5B, 0x5C, 0x5F, 0x62, 0x63, 0x64, 0x67, 0x6B, 0x6F, 0x72, 0x73, 0x74, 0x77, 0x7A, 0x7B, 0x7C, 0x7F, 0x80] ++
  [0x82, 0x83, 0x87, 0x89, 0x8B, 0x8F, 0x92, 0x93, 0x97, 0x9B, 0x9C, 0x9E, 0x9F, 0xA3, 0xA7, 0xAB, 0xAF, 0xB2, 0xB3] ++
  [0xB7, 0xBB, 0xBF, 0xC2, 0xC3, 0xC7, 0xCB, 0xCF, 0xD2, 0xD3, 0xD4, 0xD7, 0xDA, 0xDB, 0xDC, 0xDF, 0xE2, 0xE3, 0xE7] ++
  [0xEB, 0xEF, 0xF2, 0xF3, 0xF4, 0xF7, 0xFA, 0xFB, 0xFC, 0xFF]

/-- Check 1: the instruction's mode is a supported slot of its mnemonic (R102). -/
def Instr.modeSupported (i : Instr) : Bool := i.mnemonic.modes.contains i.mode

/-- Check 2: the byte of an undefined-opcode instruction is an undefined opcode (R103). Every other
instruction passes. -/
def Instr.undefinedByteOk : Instr → Bool
  | .und op => undefinedOpcodes.contains op
  | _ => true

/-- The instruction exists in the opcode table. -/
def Instr.wellFormed (i : Instr) : Bool := i.modeSupported && i.undefinedByteOk

end Sys2Proof
end

