-- ==== Sys2Proof/Decode.lean ====
section
/-! DEFINITION. The decoder and the encoder. The decoder reads the 256-entry table as R101 prints it; the
encoder reads the opcode groups as R102 prints them. The two are separate transcriptions. -/

namespace Sys2Proof

/-! ### Byte order -/

/-- `lo(w) = w[7:0]` (R10). -/
def lo (w : Addr) : Byte := w.extractLsb' 0 8

/-- `hi(w) = w[15:8]` (R10). -/
def hi (w : Addr) : Byte := w.extractLsb' 8 8

/-- `word(h, l) = h || l` (R10): the high byte first, as in the spec. -/
def word (h l : Byte) : Addr := h ++ l

/-! ### Lengths -/

/-- The operand bytes that follow an opcode of a mode (R81, R82). -/
def Mode.operandLength : Mode → Nat
  | .IMP | .ACC => 0
  | .IMM | .ZP | .ZPX | .ZPY | .INDX | .INDY | .REL => 1
  | .ABS | .ABSX | .ABSY | .IND => 2

/-- The length of an instruction of a mode in bytes, the opcode included (R82). -/
def Mode.length (m : Mode) : Nat := m.operandLength + 1

/-- The length of an instruction in bytes (R80, R82). -/
def Instr.length (i : Instr) : Nat := i.mode.length

/-! ### The opcode table of R101 -/

/-- One defined entry of the table: the opcode byte, its mnemonic, mode and base cycles, and the `+`
mark of the entries that pay for a page crossing (R99, R101). -/
structure TableEntry where
  op : Byte
  mn : Mnemonic
  mode : Mode
  cycles : Nat
  plus : Bool
  deriving DecidableEq, Repr

/-- An entry without the `+` mark. -/
def ent (op : Byte) (mn : Mnemonic) (mode : Mode) (cycles : Nat) : TableEntry := ⟨op, mn, mode, cycles, false⟩

/-- An entry with the `+` mark. -/
def entX (op : Byte) (mn : Mnemonic) (mode : Mode) (cycles : Nat) : TableEntry := ⟨op, mn, mode, cycles, true⟩

/-- Row 0x of R101. -/
def tableRow0 : List TableEntry :=
  [ent 0x00 .BRK .IMP 7, ent 0x01 .ORA .INDX 6, ent 0x05 .ORA .ZP 3, ent 0x06 .ASL .ZP 5,
   ent 0x08 .PHP .IMP 3, ent 0x09 .ORA .IMM 2, ent 0x0A .ASL .ACC 2, ent 0x0D .ORA .ABS 4,
   ent 0x0E .ASL .ABS 6]

/-- Row 1x of R101. -/
def tableRow1 : List TableEntry :=
  [ent 0x10 .BPL .REL 2, entX 0x11 .ORA .INDY 5, ent 0x15 .ORA .ZPX 4, ent 0x16 .ASL .ZPX 6,
   ent 0x18 .CLC .IMP 2, entX 0x19 .ORA .ABSY 4, entX 0x1D .ORA .ABSX 4, ent 0x1E .ASL .ABSX 7]

/-- Row 2x of R101. -/
def tableRow2 : List TableEntry :=
  [ent 0x20 .JSR .ABS 6, ent 0x21 .AND .INDX 6, ent 0x24 .BIT .ZP 3, ent 0x25 .AND .ZP 3,
   ent 0x26 .ROL .ZP 5, ent 0x28 .PLP .IMP 4, ent 0x29 .AND .IMM 2, ent 0x2A .ROL .ACC 2,
   ent 0x2C .BIT .ABS 4, ent 0x2D .AND .ABS 4, ent 0x2E .ROL .ABS 6]

/-- Row 3x of R101. -/
def tableRow3 : List TableEntry :=
  [ent 0x30 .BMI .REL 2, entX 0x31 .AND .INDY 5, ent 0x35 .AND .ZPX 4, ent 0x36 .ROL .ZPX 6,
   ent 0x38 .SEC .IMP 2, entX 0x39 .AND .ABSY 4, entX 0x3D .AND .ABSX 4, ent 0x3E .ROL .ABSX 7]

/-- Row 4x of R101. -/
def tableRow4 : List TableEntry :=
  [ent 0x40 .RTI .IMP 6, ent 0x41 .EOR .INDX 6, ent 0x45 .EOR .ZP 3, ent 0x46 .LSR .ZP 5,
   ent 0x48 .PHA .IMP 3, ent 0x49 .EOR .IMM 2, ent 0x4A .LSR .ACC 2, ent 0x4C .JMP .ABS 3,
   ent 0x4D .EOR .ABS 4, ent 0x4E .LSR .ABS 6]

/-- Row 5x of R101. -/
def tableRow5 : List TableEntry :=
  [ent 0x50 .BVC .REL 2, entX 0x51 .EOR .INDY 5, ent 0x55 .EOR .ZPX 4, ent 0x56 .LSR .ZPX 6,
   ent 0x58 .CLI .IMP 2, entX 0x59 .EOR .ABSY 4, entX 0x5D .EOR .ABSX 4, ent 0x5E .LSR .ABSX 7]

/-- Row 6x of R101. -/
def tableRow6 : List TableEntry :=
  [ent 0x60 .RTS .IMP 6, ent 0x61 .ADC .INDX 6, ent 0x65 .ADC .ZP 3, ent 0x66 .ROR .ZP 5,
   ent 0x68 .PLA .IMP 4, ent 0x69 .ADC .IMM 2, ent 0x6A .ROR .ACC 2, ent 0x6C .JMP .IND 5,
   ent 0x6D .ADC .ABS 4, ent 0x6E .ROR .ABS 6]

/-- Row 7x of R101. -/
def tableRow7 : List TableEntry :=
  [ent 0x70 .BVS .REL 2, entX 0x71 .ADC .INDY 5, ent 0x75 .ADC .ZPX 4, ent 0x76 .ROR .ZPX 6,
   ent 0x78 .SEI .IMP 2, entX 0x79 .ADC .ABSY 4, entX 0x7D .ADC .ABSX 4, ent 0x7E .ROR .ABSX 7]

/-- Row 8x of R101. -/
def tableRow8 : List TableEntry :=
  [ent 0x81 .STA .INDX 6, ent 0x84 .STY .ZP 3, ent 0x85 .STA .ZP 3, ent 0x86 .STX .ZP 3,
   ent 0x88 .DEY .IMP 2, ent 0x8A .TXA .IMP 2, ent 0x8C .STY .ABS 4, ent 0x8D .STA .ABS 4,
   ent 0x8E .STX .ABS 4]

/-- Row 9x of R101. -/
def tableRow9 : List TableEntry :=
  [ent 0x90 .BCC .REL 2, ent 0x91 .STA .INDY 6, ent 0x94 .STY .ZPX 4, ent 0x95 .STA .ZPX 4,
   ent 0x96 .STX .ZPY 4, ent 0x98 .TYA .IMP 2, ent 0x99 .STA .ABSY 5, ent 0x9A .TXS .IMP 2,
   ent 0x9D .STA .ABSX 5]

/-- Row Ax of R101. -/
def tableRowA : List TableEntry :=
  [ent 0xA0 .LDY .IMM 2, ent 0xA1 .LDA .INDX 6, ent 0xA2 .LDX .IMM 2, ent 0xA4 .LDY .ZP 3,
   ent 0xA5 .LDA .ZP 3, ent 0xA6 .LDX .ZP 3, ent 0xA8 .TAY .IMP 2, ent 0xA9 .LDA .IMM 2,
   ent 0xAA .TAX .IMP 2, ent 0xAC .LDY .ABS 4, ent 0xAD .LDA .ABS 4, ent 0xAE .LDX .ABS 4]

/-- Row Bx of R101. -/
def tableRowB : List TableEntry :=
  [ent 0xB0 .BCS .REL 2, entX 0xB1 .LDA .INDY 5, ent 0xB4 .LDY .ZPX 4, ent 0xB5 .LDA .ZPX 4,
   ent 0xB6 .LDX .ZPY 4, ent 0xB8 .CLV .IMP 2, entX 0xB9 .LDA .ABSY 4, ent 0xBA .TSX .IMP 2,
   entX 0xBC .LDY .ABSX 4, entX 0xBD .LDA .ABSX 4, entX 0xBE .LDX .ABSY 4]

/-- Row Cx of R101. -/
def tableRowC : List TableEntry :=
  [ent 0xC0 .CPY .IMM 2, ent 0xC1 .CMP .INDX 6, ent 0xC4 .CPY .ZP 3, ent 0xC5 .CMP .ZP 3,
   ent 0xC6 .DEC .ZP 5, ent 0xC8 .INY .IMP 2, ent 0xC9 .CMP .IMM 2, ent 0xCA .DEX .IMP 2,
   ent 0xCC .CPY .ABS 4, ent 0xCD .CMP .ABS 4, ent 0xCE .DEC .ABS 6]

/-- Row Dx of R101. -/
def tableRowD : List TableEntry :=
  [ent 0xD0 .BNE .REL 2, entX 0xD1 .CMP .INDY 5, ent 0xD5 .CMP .ZPX 4, ent 0xD6 .DEC .ZPX 6,
   ent 0xD8 .CLD .IMP 2, entX 0xD9 .CMP .ABSY 4, entX 0xDD .CMP .ABSX 4, ent 0xDE .DEC .ABSX 7]

/-- Row Ex of R101. -/
def tableRowE : List TableEntry :=
  [ent 0xE0 .CPX .IMM 2, ent 0xE1 .SBC .INDX 6, ent 0xE4 .CPX .ZP 3, ent 0xE5 .SBC .ZP 3,
   ent 0xE6 .INC .ZP 5, ent 0xE8 .INX .IMP 2, ent 0xE9 .SBC .IMM 2, ent 0xEA .NOP .IMP 2,
   ent 0xEC .CPX .ABS 4, ent 0xED .SBC .ABS 4, ent 0xEE .INC .ABS 6]

/-- Row Fx of R101. -/
def tableRowF : List TableEntry :=
  [ent 0xF0 .BEQ .REL 2, entX 0xF1 .SBC .INDY 5, ent 0xF5 .SBC .ZPX 4, ent 0xF6 .INC .ZPX 6,
   ent 0xF8 .SED .IMP 2, entX 0xF9 .SBC .ABSY 4, entX 0xFD .SBC .ABSX 4, ent 0xFE .INC .ABSX 7]

/-- The row of the table that holds the opcodes with a given high digit (R101). -/
def tableRow : Nat → List TableEntry
  | 0x0 => tableRow0 | 0x1 => tableRow1 | 0x2 => tableRow2 | 0x3 => tableRow3
  | 0x4 => tableRow4 | 0x5 => tableRow5 | 0x6 => tableRow6 | 0x7 => tableRow7
  | 0x8 => tableRow8 | 0x9 => tableRow9 | 0xA => tableRowA | 0xB => tableRowB
  | 0xC => tableRowC | 0xD => tableRowD | 0xE => tableRowE | 0xF => tableRowF
  | _ => []

/-- The table's defined entry for an opcode byte, or nothing where the opcode is undefined (R101, R103). -/
def tableEntry (op : Byte) : Option TableEntry := (tableRow (op.toNat / 16)).find? (·.op == op)

/-- The mnemonic column of the 256-entry table (R101, R230): `UND` for an undefined opcode. -/
def tableMnemonic (op : Byte) : Mnemonic := ((tableEntry op).map (·.mn)).getD .UND

/-- The mode column of the 256-entry table (R101, R230): implied for an undefined opcode (R103). -/
def tableMode (op : Byte) : Mode := ((tableEntry op).map (·.mode)).getD .IMP

/-- The base-cycle column of the 256-entry table (R101): `UNDEF_BASE_CYCLES` for an undefined opcode. -/
def tableCycles (op : Byte) : Nat := ((tableEntry op).map (·.cycles)).getD Config.undefBaseCycles

/-! ### The decoder -/

/-- The memory operand of a mode, from the operand bytes in order (R83). -/
def memOperandOf (mode : Mode) (b1 b2 : Byte) : Option MemOperand :=
  match mode with
  | .ZP => some (.zp b1)
  | .ZPX => some (.zpx b1)
  | .ZPY => some (.zpy b1)
  | .ABS => some (.abs (word b2 b1))
  | .ABSX => some (.absx (word b2 b1))
  | .ABSY => some (.absy (word b2 b1))
  | .INDX => some (.indx b1)
  | .INDY => some (.indy b1)
  | .IMP | .ACC | .IMM | .IND | .REL => none

/-- The read operand of a mode (R83, R86). -/
def readOperandOf (mode : Mode) (b1 b2 : Byte) : Option ReadOperand :=
  if mode = .IMM then some (.imm b1) else (memOperandOf mode b1 b2).map .mem

/-- The operand of a shift or rotate (R85). -/
def shiftOperandOf (mode : Mode) (b1 b2 : Byte) : Option ShiftOperand :=
  if mode = .ACC then some .acc else (memOperandOf mode b1 b2).map .mem

/-- The operand of JMP (R90, R93). -/
def jumpOperandOf (mode : Mode) (b1 b2 : Byte) : Option JumpOperand :=
  match mode with
  | .ABS => some (.abs (word b2 b1))
  | .IND => some (.ind (word b2 b1))
  | .IMP | .ACC | .IMM | .ZP | .ZPX | .ZPY | .ABSX | .ABSY | .INDX | .INDY | .REL => none

/-- The instruction of a mnemonic in a mode with its operand bytes; nothing where the mnemonic has no
such operand form. The table never asks for one of those (`Laws/Decode.lean`). -/
def instrOf (mn : Mnemonic) (mode : Mode) (b1 b2 : Byte) : Option Instr :=
  match mn with
  | .LDA => (readOperandOf mode b1 b2).map .lda
  | .LDX => (readOperandOf mode b1 b2).map .ldx
  | .LDY => (readOperandOf mode b1 b2).map .ldy
  | .STA => (memOperandOf mode b1 b2).map .sta
  | .STX => (memOperandOf mode b1 b2).map .stx
  | .STY => (memOperandOf mode b1 b2).map .sty
  | .TAX => some .tax
  | .TAY => some .tay
  | .TXA => some .txa
  | .TYA => some .tya
  | .TSX => some .tsx
  | .TXS => some .txs
  | .ADC => (readOperandOf mode b1 b2).map .adc
  | .SBC => (readOperandOf mode b1 b2).map .sbc
  | .CMP => (readOperandOf mode b1 b2).map .cmp
  | .CPX => (readOperandOf mode b1 b2).map .cpx
  | .CPY => (readOperandOf mode b1 b2).map .cpy
  | .INC => (memOperandOf mode b1 b2).map .inc
  | .INX => some .inx
  | .INY => some .iny
  | .DEC => (memOperandOf mode b1 b2).map .dec
  | .DEX => some .dex
  | .DEY => some .dey
  | .AND => (readOperandOf mode b1 b2).map .and
  | .ORA => (readOperandOf mode b1 b2).map .ora
  | .EOR => (readOperandOf mode b1 b2).map .eor
  | .BIT => (memOperandOf mode b1 b2).map .bit
  | .ASL => (shiftOperandOf mode b1 b2).map .asl
  | .LSR => (shiftOperandOf mode b1 b2).map .lsr
  | .ROL => (shiftOperandOf mode b1 b2).map .rol
  | .ROR => (shiftOperandOf mode b1 b2).map .ror
  | .JMP => (jumpOperandOf mode b1 b2).map .jmp
  | .JSR => some (.jsr (word b2 b1))
  | .RTS => some .rts
  | .BCC => some (.bcc b1)
  | .BCS => some (.bcs b1)
  | .BEQ => some (.beq b1)
  | .BNE => some (.bne b1)
  | .BMI => some (.bmi b1)
  | .BPL => some (.bpl b1)
  | .BVC => some (.bvc b1)
  | .BVS => some (.bvs b1)
  | .PHA => some .pha
  | .PLA => some .pla
  | .PHP => some .php
  | .PLP => some .plp
  | .CLC => some .clc
  | .SEC => some .sec
  | .CLI => some .cli
  | .SEI => some .sei
  | .CLD => some .cld
  | .SED => some .sed
  | .CLV => some .clv
  | .BRK => some .brk
  | .RTI => some .rti
  | .NOP => some .nop
  | .UND => none

/-- The instruction at three bytes of memory: total, every opcode byte decodes (R80, R101, R103). Bytes
past the instruction's length are not looked at. -/
def decode3 (op b1 b2 : Byte) : Instr :=
  match tableEntry op with
  | none => .und op
  | some e => (instrOf e.mn e.mode b1 b2).getD (.und op)

/-- Why a byte sequence holds no whole instruction. -/
inductive DecodeError where
  /-- There is no opcode byte. -/
  | noBytes
  /-- The opcode is there and its operand bytes are not all there. -/
  | truncated (op : Byte)
  deriving DecidableEq, Repr

/-- The first instruction of a byte sequence and the bytes after it: the opcode alone decides the length
(R80 to R82). The only byte sequences refused are those that end before the instruction does. -/
def decodeBytes : List Byte → Except DecodeError (Instr × List Byte)
  | [] => .error .noBytes
  | op :: rest =>
    match (tableMode op).operandLength, rest with
    | 0, r => .ok (decode3 op 0 0, r)
    | 1, b1 :: r => .ok (decode3 op b1 0, r)
    | 2, b1 :: b2 :: r => .ok (decode3 op b1 b2, r)
    | _, _ => .error (.truncated op)

/-- Byte `k` of an instruction given as one number whose bit 0 is the least significant bit of its first
byte, `nbits` bits of it being meaningful and every bit above them 0. -/
def wordByte (nbits w k : Nat) : Byte := BitVec.ofNat 8 ((w % 2 ^ nbits) / 256 ^ k)

/-- The instruction the decoder reads from the first three bytes of `w`, lowest address first. -/
def decodeTableWord (nbits w : Nat) : Option Instr :=
  match decodeBytes [wordByte nbits w 0, wordByte nbits w 1, wordByte nbits w 2] with
  | .ok (i, _) => some i
  | .error _ => none

/-! ### The encoder, from the opcode groups of R102 -/

/-- The slot of an opcode group that a mode uses (R19, R102). -/
def Mode.slot : Mode → Slot
  | .IMP | .ACC => .SNGL
  | .IMM => .IMM
  | .ZP => .ZP
  | .ZPX => .ZPX
  | .ZPY => .ZPY
  | .ABS => .ABS
  | .ABSX => .ABSX
  | .ABSY => .ABSY
  | .IND => .IND
  | .INDX => .INDX
  | .INDY => .INDY
  | .REL => .BRA

/-- The opcode group of a mnemonic: its supported slots and their opcode bytes (R102). `UND` has none. -/
def opcodeGroup : Mnemonic → List (Slot × Byte)
  | .ADC => [(.IMM, 0x69), (.ZP, 0x65), (.ZPX, 0x75), (.ABS, 0x6D), (.ABSX, 0x7D), (.ABSY, 0x79), (.INDX, 0x61), (.INDY, 0x71)]
  | .AND => [(.IMM, 0x29), (.ZP, 0x25), (.ZPX, 0x35), (.ABS, 0x2D), (.ABSX, 0x3D), (.ABSY, 0x39), (.INDX, 0x21), (.INDY, 0x31)]
  | .ASL => [(.ZP, 0x06), (.ZPX, 0x16), (.ABS, 0x0E), (.ABSX, 0x1E), (.SNGL, 0x0A)]
  | .BCC => [(.BRA, 0x90)]
  | .BCS => [(.BRA, 0xB0)]
  | .BEQ => [(.BRA, 0xF0)]
  | .BIT => [(.ZP, 0x24), (.ABS, 0x2C)]
  | .BMI => [(.BRA, 0x30)]
  | .BNE => [(.BRA, 0xD0)]
  | .BPL => [(.BRA, 0x10)]
  | .BRK => [(.SNGL, 0x00)]
  | .BVC => [(.BRA, 0x50)]
  | .BVS => [(.BRA, 0x70)]
  | .CLC => [(.SNGL, 0x18)]
  | .CLD => [(.SNGL, 0xD8)]
  | .CLI => [(.SNGL, 0x58)]
  | .CLV => [(.SNGL, 0xB8)]
  | .CMP => [(.IMM, 0xC9), (.ZP, 0xC5), (.ZPX, 0xD5), (.ABS, 0xCD), (.ABSX, 0xDD), (.ABSY, 0xD9), (.INDX, 0xC1), (.INDY, 0xD1)]
  | .CPX => [(.IMM, 0xE0), (.ZP, 0xE4), (.ABS, 0xEC)]
  | .CPY => [(.IMM, 0xC0), (.ZP, 0xC4), (.ABS, 0xCC)]
  | .DEC => [(.ZP, 0xC6), (.ZPX, 0xD6), (.ABS, 0xCE), (.ABSX, 0xDE)]
  | .DEX => [(.SNGL, 0xCA)]
  | .DEY => [(.SNGL, 0x88)]
  | .EOR => [(.IMM, 0x49), (.ZP, 0x45), (.ZPX, 0x55), (.ABS, 0x4D), (.ABSX, 0x5D), (.ABSY, 0x59), (.INDX, 0x41), (.INDY, 0x51)]
  | .INC => [(.ZP, 0xE6), (.ZPX, 0xF6), (.ABS, 0xEE), (.ABSX, 0xFE)]
  | .INX => [(.SNGL, 0xE8)]
  | .INY => [(.SNGL, 0xC8)]
  | .JMP => [(.ABS, 0x4C), (.IND, 0x6C)]
  | .JSR => [(.ABS, 0x20)]
  | .LDA => [(.IMM, 0xA9), (.ZP, 0xA5), (.ZPX, 0xB5), (.ABS, 0xAD), (.ABSX, 0xBD), (.ABSY, 0xB9), (.INDX, 0xA1), (.INDY, 0xB1)]
  | .LDX => [(.IMM, 0xA2), (.ZP, 0xA6), (.ZPY, 0xB6), (.ABS, 0xAE), (.ABSY, 0xBE)]
  | .LDY => [(.IMM, 0xA0), (.ZP, 0xA4), (.ZPX, 0xB4), (.ABS, 0xAC), (.ABSX, 0xBC)]
  | .LSR => [(.ZP, 0x46), (.ZPX, 0x56), (.ABS, 0x4E), (.ABSX, 0x5E), (.SNGL, 0x4A)]
  | .NOP => [(.SNGL, 0xEA)]
  | .ORA => [(.IMM, 0x09), (.ZP, 0x05), (.ZPX, 0x15), (.ABS, 0x0D), (.ABSX, 0x1D), (.ABSY, 0x19), (.INDX, 0x01), (.INDY, 0x11)]
  | .PHA => [(.SNGL, 0x48)]
  | .PHP => [(.SNGL, 0x08)]
  | .PLA => [(.SNGL, 0x68)]
  | .PLP => [(.SNGL, 0x28)]
  | .ROL => [(.ZP, 0x26), (.ZPX, 0x36), (.ABS, 0x2E), (.ABSX, 0x3E), (.SNGL, 0x2A)]
  | .ROR => [(.ZP, 0x66), (.ZPX, 0x76), (.ABS, 0x6E), (.ABSX, 0x7E), (.SNGL, 0x6A)]
  | .RTI => [(.SNGL, 0x40)]
  | .RTS => [(.SNGL, 0x60)]
  | .SBC => [(.IMM, 0xE9), (.ZP, 0xE5), (.ZPX, 0xF5), (.ABS, 0xED), (.ABSX, 0xFD), (.ABSY, 0xF9), (.INDX, 0xE1), (.INDY, 0xF1)]
  | .SEC => [(.SNGL, 0x38)]
  | .SED => [(.SNGL, 0xF8)]
  | .SEI => [(.SNGL, 0x78)]
  | .STA => [(.ZP, 0x85), (.ZPX, 0x95), (.ABS, 0x8D), (.ABSX, 0x9D), (.ABSY, 0x99), (.INDX, 0x81), (.INDY, 0x91)]
  | .STX => [(.ZP, 0x86), (.ZPY, 0x96), (.ABS, 0x8E)]
  | .STY => [(.ZP, 0x84), (.ZPX, 0x94), (.ABS, 0x8C)]
  | .TAX => [(.SNGL, 0xAA)]
  | .TAY => [(.SNGL, 0xA8)]
  | .TSX => [(.SNGL, 0xBA)]
  | .TXA => [(.SNGL, 0x8A)]
  | .TXS => [(.SNGL, 0x9A)]
  | .TYA => [(.SNGL, 0x98)]
  | .UND => []

/-- The opcode byte in a slot of a mnemonic's group, or nothing where the slot is "unsupported" (R102). -/
def opcodeFor (mn : Mnemonic) (sl : Slot) : Option Byte := ((opcodeGroup mn).find? (·.1 == sl)).map (·.2)

/-- The operand bytes of a memory operand, in increasing address order: the low byte first (R54, R81). -/
def MemOperand.bytes : MemOperand → List Byte
  | .zp a => [a]
  | .zpx b => [b]
  | .zpy b => [b]
  | .abs a => [lo a, hi a]
  | .absx b => [lo b, hi b]
  | .absy b => [lo b, hi b]
  | .indx b => [b]
  | .indy b => [b]

/-- The operand bytes of a read operand (R81). -/
def ReadOperand.bytes : ReadOperand → List Byte
  | .imm v => [v]
  | .mem m => m.bytes

/-- The operand bytes of a shift's operand (R81). -/
def ShiftOperand.bytes : ShiftOperand → List Byte
  | .acc => []
  | .mem m => m.bytes

/-- The operand bytes of a jump's operand (R81). -/
def JumpOperand.bytes : JumpOperand → List Byte
  | .abs a => [lo a, hi a]
  | .ind ptr => [lo ptr, hi ptr]

/-- The operand bytes of an instruction (R81, R83). -/
def Instr.operandBytes : Instr → List Byte
  | .lda o => o.bytes
  | .ldx o => o.bytes
  | .ldy o => o.bytes
  | .sta o => o.bytes
  | .stx o => o.bytes
  | .sty o => o.bytes
  | .tax => []
  | .tay => []
  | .txa => []
  | .tya => []
  | .tsx => []
  | .txs => []
  | .adc o => o.bytes
  | .sbc o => o.bytes
  | .cmp o => o.bytes
  | .cpx o => o.bytes
  | .cpy o => o.bytes
  | .inc o => o.bytes
  | .inx => []
  | .iny => []
  | .dec o => o.bytes
  | .dex => []
  | .dey => []
  | .and o => o.bytes
  | .ora o => o.bytes
  | .eor o => o.bytes
  | .bit o => o.bytes
  | .asl o => o.bytes
  | .lsr o => o.bytes
  | .rol o => o.bytes
  | .ror o => o.bytes
  | .jmp o => o.bytes
  | .jsr t => [lo t, hi t]
  | .rts => []
  | .bcc off => [off]
  | .bcs off => [off]
  | .beq off => [off]
  | .bne off => [off]
  | .bmi off => [off]
  | .bpl off => [off]
  | .bvc off => [off]
  | .bvs off => [off]
  | .pha => []
  | .pla => []
  | .php => []
  | .plp => []
  | .clc => []
  | .sec => []
  | .cli => []
  | .sei => []
  | .cld => []
  | .sed => []
  | .clv => []
  | .brk => []
  | .rti => []
  | .nop => []
  | .und _ => []

/-- The opcode byte of an instruction, or nothing where the instruction does not exist (R102, R103). -/
def Instr.opcode? (i : Instr) : Option Byte :=
  if !i.wellFormed then none else
    match i with
    | .und op => some op
    | i => opcodeFor i.mnemonic i.mode.slot

/-- The bytes of an instruction, opcode first (R81), or nothing where the instruction does not exist. -/
def encode (i : Instr) : Option (List Byte) := i.opcode?.map (· :: i.operandBytes)

end Sys2Proof
end

