-- ==== Sys2Proof/Machine/Flags.lean ====
section
/-! DEFINITION. The status register's bits and every flag computation of the spec, as functions of bytes
and flags alone. -/

namespace Sys2Proof.Machine

/-- The eight bits of the status register by name (R23). -/
inductive Flag where
  | C | Z | I | D | B | U | V | N
  deriving DecidableEq, Repr

/-- The bit position of a flag (R23). -/
def Flag.bit : Flag → Nat
  | .C => 0
  | .Z => 1
  | .I => 2
  | .D => 3
  | .B => 4
  | .U => 5
  | .V => 6
  | .N => 7

/-- The status byte with this flag alone set. -/
def Flag.mask (f : Flag) : Byte := BitVec.twoPow 8 f.bit

/-- `P.f`, read from a status byte (R12). -/
def getFlag (p : Byte) (f : Flag) : Bool := p.getLsbD f.bit

/-- `P.f <- b`: one bit is written and the others are left (R12). -/
def setFlag (p : Byte) (f : Flag) (b : Bool) : Byte := if b then p ||| f.mask else p &&& ~~~f.mask

/-- `setZN(v)` on a status byte (R26). -/
def setZN (p v : Byte) : Byte := setFlag (setFlag p .Z (v == 0)) .N v.msb

/-- The status byte that PHP and BRK push: bits 4 and 5 set (R29). -/
def pushedStatus (p : Byte) : Byte := p ||| 0x30

/-- The status register after PLP or RTI pulled `v`: bits 4 and 5 keep their values (R30). -/
def pulledStatus (p v : Byte) : Byte := (v &&& 0xCF) ||| (p &&& 0x30)

/-! ### Binary addition and subtraction -/

/-- What an addition or subtraction computes: the byte, the carry and the overflow. -/
structure AddResult where
  r : Byte
  c : Bool
  v : Bool
  deriving DecidableEq, Repr

/-- ADC in binary mode (R140). -/
def addBinary (a m : Byte) (c : Bool) : AddResult :=
  let t := a.toNat + m.toNat + c.toNat
  let r := BitVec.ofNat 8 t
  ⟨r, decide (t > 0xFF), ((a ^^^ r) &&& (m ^^^ r) &&& 0x80) != 0⟩

/-- SBC in binary mode (R142). -/
def subBinary (a m : Byte) (c : Bool) : AddResult :=
  let t := a.toNat + (m ^^^ 0xFF).toNat + c.toNat
  let r := BitVec.ofNat 8 t
  ⟨r, decide (t > 0xFF), ((a ^^^ m) &&& (a ^^^ r) &&& 0x80) != 0⟩

/-! ### Decimal addition and subtraction -/

/-- The high nibble of a byte, `v[7:4]`. -/
def hiNibble (v : Byte) : Nat := v.toNat / 16

/-- The low nibble of a byte, `v[3:0]`. -/
def loNibble (v : Byte) : Nat := v.toNat % 16

/-- A valid BCD byte: both nibbles are 0 to 9 (R18). -/
def validBcd (v : Byte) : Bool := decide (hiNibble v ≤ 9) && decide (loNibble v ≤ 9)

/-- `dec(v) = 10 * v[7:4] + v[3:0]` (R141). -/
def dec (v : Byte) : Nat := 10 * hiNibble v + loNibble v

/-- `bcd(n)` for `0 ≤ n ≤ 99` (R141). -/
def bcd (n : Nat) : Byte := BitVec.ofNat 8 (16 * (n / 10) + n % 10)

/-- The byte and the carry of a decimal ADC on valid BCD operands (R141). -/
def addDecimal (a m : Byte) (c : Bool) : Byte × Bool :=
  let s := dec a + dec m + c.toNat
  (bcd (s % 100), decide (s ≥ 100))

/-- The byte and the carry of a decimal SBC on valid BCD operands (R143). -/
def subDecimal (a m : Byte) (c : Bool) : Byte × Bool :=
  let d : Int := (dec a : Int) - dec m - (1 - c.toNat)
  if d < 0 then (bcd (d + 100).toNat, false) else (bcd d.toNat, true)

/-! ### Compare, shifts and rotates -/

/-- The status byte after comparing a register with an operand (R144). -/
def compareFlags (p reg m : Byte) : Byte :=
  setFlag (setFlag (setFlag p .C (decide (reg.toNat ≥ m.toNat))) .Z (reg == m)) .N (reg - m).msb

/-- The status byte after BIT (R163). -/
def bitFlags (p a m : Byte) : Byte :=
  setFlag (setFlag (setFlag p .Z (a &&& m == 0)) .N (m.getLsbD 7)) .V (m.getLsbD 6)

/-- What a shift or rotate computes: the byte and the bit shifted out. -/
structure ShiftResult where
  r : Byte
  c : Bool
  deriving DecidableEq, Repr

/-- ASL (R164). -/
def shiftLeft (v : Byte) : ShiftResult := ⟨v <<< 1, v.getLsbD 7⟩

/-- LSR (R165). -/
def shiftRight (v : Byte) : ShiftResult := ⟨v >>> 1, v.getLsbD 0⟩

/-- ROL: the old carry enters at bit 0 (R166). -/
def rotateLeft (v : Byte) (c : Bool) : ShiftResult := ⟨(v <<< 1) ||| (if c then 0x01 else 0x00), v.getLsbD 7⟩

/-- ROR: the old carry enters at bit 7 (R167). -/
def rotateRight (v : Byte) (c : Bool) : ShiftResult := ⟨(v >>> 1) ||| (if c then 0x80 else 0x00), v.getLsbD 0⟩

end Sys2Proof.Machine
end

