-- ==== Sys2Proof/Machine/State.lean ====
section
/-! DEFINITION. The state of the machine, the reasons a step could stop, and the state after reset. -/

namespace Sys2Proof.Machine

/-- The byte memory of 65536 cells (R50), as the list of the cells that differ from what an unlisted
address reads as, addresses rising (`Memory.wf` in `Machine/Ops.lean`). -/
abbrev Memory := List Host.Cell

/-- The registers the notation `x[r]` names (R12): A, X, Y (R21), SP (R22) and P (R23). -/
inductive Reg where
  | A | X | Y | SP | P
  deriving DecidableEq, Repr

/-- What a step returns (R33): the cycles it consumed and whether it executed BRK. -/
structure StepResult where
  cycles : Nat
  brk    : Bool
  deriving DecidableEq, Repr

/-- Where a run in progress stands (R298): at the top of a batch, where the halt flag is examined; inside
a batch; or at the boundary after a batch, where the host may act (R299). -/
inductive RunPhase where
  | top | batch | boundary
  deriving DecidableEq, Repr

/-- The argument and the local variables of a `Run` in progress (R298). -/
structure RunProgress where
  breakStop : Bool
  used      : Nat
  phase     : RunPhase
  deriving DecidableEq, Repr

/-- The whole state. -/
structure State where
  /-- Accumulator (R21). -/
  a   : Byte
  /-- Index register X (R21). -/
  x   : Byte
  /-- Index register Y (R21). -/
  y   : Byte
  /-- Stack pointer, an offset into page 1 (R22). -/
  sp  : Byte
  /-- Status register: C Z I D B U V N from bit 0 to bit 7 (R23). -/
  p   : Byte
  /-- Program counter; between steps, the address of the next opcode (R24). -/
  pc  : Addr
  /-- Cycle counter, unbounded (R25). -/
  cyc : Nat
  /-- Memory (R50). -/
  mem : Memory
  /-- True from the start of a run to its stop notification (R34). -/
  running : Bool
  /-- Set by `Halt`, examined at the top of a batch (R34). -/
  haltRequested : Bool
  /-- The run in progress: the local variables of R298's `Run`, kept while `running` holds. -/
  run : Option RunProgress
  /-- What the latest step returned (R33). An output that no rule reads: the model's own field. -/
  result : StepResult
  /-- How many free values have been drawn (U2, U3). The model's own field. -/
  freeCtr : Nat
  deriving DecidableEq, Repr

/-- The CPU raises no fault of any kind (R290), so there is no reason to name. Safe: the type is empty,
and an outcome `fault` cannot be built. -/
inductive Fault where
  deriving DecidableEq, Repr

/-- Why the model has no meaning for an instruction. -/
inductive Refusal where
  /-- Raised by `exec` alone, for an instruction that has no meaning yet; no arm of this model raises it.
  Safe: the run stops. -/
  | notModelled (mnemonic : String)
  deriving DecidableEq, Repr

/-- The state after `Reset(true)` (R40, R311): A, X, Y zero, SP 0xFF, P 0x20, PC 0, the cycle counter 0,
every memory cell 0, no run and no halt request. The two model's own fields start at zero. -/
def State.reset : State where
  a := 0x00
  x := 0x00
  y := 0x00
  sp := 0xFF
  p := 0x20
  pc := 0x0000
  cyc := 0
  mem := []
  running := false
  haltRequested := false
  run := none
  result := ⟨0, false⟩
  freeCtr := 0

end Sys2Proof.Machine
end

