-- ==== Sys2Proof/Machine/Ops.lean ====
section
/-! DEFINITION. The named operations over memory, registers and the stack, taking the BRK trap and
returning from it, fetching an instruction, and the accounting that ends every step. -/

namespace Sys2Proof.Machine

/-- What a step answers. -/
abbrev StepOutcome := Host.Outcome State Fault Refusal

/-! ### Memory as data -/

/-- What an unlisted address reads as: the 0x00 that `Reset(true)` writes to every cell (R40, R311). -/
def unlistedByte : Byte := 0x00

/-- The cells lie at rising addresses from `from_` on, inside the address space, and none holds what an
unlisted address reads as. -/
def Memory.wfFrom : Nat → Memory → Bool
  | _, [] => true
  | n, (k, v) :: m => decide (n ≤ k) && decide (k < 65536) && (v != unlistedByte) && Memory.wfFrom (k + 1) m

/-- The canonical form: equal memories are equal lists. -/
def Memory.wf (m : Memory) : Bool := Memory.wfFrom 0 m

/-- The byte at an address. -/
def Memory.read : Memory → Nat → Byte
  | [], _ => unlistedByte
  | (k, v) :: m, a => if k = a then v else Memory.read m a

/-- The memory without any cell at an address. -/
def Memory.erase : Memory → Nat → Memory
  | [], _ => []
  | (k, v) :: m, a => if k = a then Memory.erase m a else (k, v) :: Memory.erase m a

/-- A cell put at its place among the rising addresses of a memory that has no cell there. -/
def Memory.insert (a : Nat) (v : Byte) : Memory → Memory
  | [] => [(a, v)]
  | (k, w) :: m => if a < k then (a, v) :: (k, w) :: m else (k, w) :: Memory.insert a v m

/-- The memory after a byte is stored at an address. -/
def Memory.write (m : Memory) (a : Nat) (v : Byte) : Memory :=
  if v = unlistedByte then Memory.erase m a else Memory.insert a v (Memory.erase m a)

/-! ### Memory access (R52, R53) -/

/-- `MemRead(addr, 1)` (R52). The address type masks to 16 bits (R51). -/
def State.read (s : State) (addr : Addr) : Byte := Memory.read s.mem addr.toNat

/-- `MemWrite(addr, 1, v)` (R53). -/
def State.write (s : State) (addr : Addr) (v : Byte) : State := { s with mem := Memory.write s.mem addr.toNat v }

/-- `MemRead(addr, 2)`: little endian, the second address masked (R13, R52). -/
def State.readWord (s : State) (addr : Addr) : Addr := word (s.read (addr + 1)) (s.read addr)

/-- `MemWrite(addr, 2, v)`: the low byte first (R13, R53). -/
def State.writeWord (s : State) (addr : Addr) (v : Addr) : State := (s.write addr (lo v)).write (addr + 1) (hi v)

/-! ### Registers and flags (R12) -/

/-- `x[r]` (R12). -/
def State.reg (s : State) : Reg → Byte
  | .A => s.a
  | .X => s.x
  | .Y => s.y
  | .SP => s.sp
  | .P => s.p

/-- `x[r] <- v` (R12). -/
def State.setReg (s : State) (r : Reg) (v : Byte) : State :=
  match r with
  | .A => { s with a := v }
  | .X => { s with x := v }
  | .Y => { s with y := v }
  | .SP => { s with sp := v }
  | .P => { s with p := v }

/-- `pc <- t` (R12, R24). -/
def State.setPC (s : State) (t : Addr) : State := { s with pc := t }

/-- `P.f` (R12). -/
def State.flag (s : State) (f : Flag) : Bool := getFlag s.p f

/-- `P.f <- b` (R12). -/
def State.setFlag (s : State) (f : Flag) (b : Bool) : State := { s with p := Machine.setFlag s.p f b }

/-- `setZN(v)` (R26). -/
def State.setZN (s : State) (v : Byte) : State := { s with p := Machine.setZN s.p v }

/-- A register takes a value and N and Z follow it: the common end of the loads, the transfers, the
logical operations and the register increments (R121, R127, R148, R160). -/
def State.load (s : State) (r : Reg) (v : Byte) : State := (s.setReg r v).setZN v

/-- Marks `n` free values as drawn. -/
def State.drawn (s : State) (n : Nat) : State := { s with freeCtr := s.freeCtr + n }

/-! ### The stack (R60, R61) -/

/-- The stack location an offset designates, `0x0100 + SP` (R22). -/
def stackAddr (sp : Byte) : Addr := 0x0100 + sp.zeroExtend 16

/-- `push(v)`: the write at the old SP, then the decrement, which wraps (R60). -/
def State.push (s : State) (v : Byte) : State := (s.write (stackAddr s.sp) v).setReg .SP (s.sp - 1)

/-- What `pull()` returns: the byte above the old SP (R61). -/
def State.pulled (s : State) : Byte := s.read (stackAddr (s.sp + 1))

/-- What `pull()` leaves: SP incremented, which wraps (R61). -/
def State.popped (s : State) : State := s.setReg .SP (s.sp + 1)

/-- A two-byte push, high byte first (R54, R181, R220). -/
def State.pushWord (s : State) (w : Addr) : State := (s.push (hi w)).push (lo w)

/-- What a two-byte pull returns: the low byte comes first (R182, R221). -/
def State.pulledWord (s : State) : Addr := word s.popped.pulled s.pulled

/-- What a two-byte pull leaves. -/
def State.poppedWord (s : State) : State := s.popped.popped

/-! ### Taking the trap and returning from it (R220, R221, R294, R295) -/

/-- The trap entry of BRK, the only one there is (R294): the return address and then the status are
pushed, interrupt-disable is set after that, and the program counter is loaded from the vector. -/
def State.takeBreak (s : State) (ret : Addr) : State :=
  let s₁ := (s.pushWord ret).push (pushedStatus s.p)
  let s₂ := s₁.setFlag .I true
  s₂.setPC (s₂.readWord Config.irqVector)

/-- The return from the trap (R221, R295): six flags from the stacked status, then the program counter. -/
def State.returnFromBreak (s : State) : State :=
  let s₁ := s.popped.setReg .P (pulledStatus s.p s.pulled)
  s₁.poppedWord.setPC s₁.pulledWord

/-! ### Sign extension and page crossing -/

/-- `sext_16(b)` (R11). -/
def sext16 (b : Byte) : Addr := b.signExtend 16

/-- `hi(base) ≠ hi(ea)`: the page changed (R91, R95, R98). -/
def pageCrossed (base ea : Addr) : Bool := hi base != hi ea

/-! ### Fetch (R84, R96) -/

/-- The instruction at the program counter. The three bytes from `pc` on are read and the decoder uses
as many as the opcode asks for; reading the others changes nothing (R52, R57). -/
def State.fetchInstr (s : State) : Instr := decode3 (s.read s.pc) (s.read (s.pc + 1)) (s.read (s.pc + 2))

/-- The program counter after the opcode and every operand byte have been read (R24, R84). -/
def State.pastInstr (s : State) (i : Instr) : State := s.setPC (s.pc + BitVec.ofNat 16 i.length)

/-- The state with up to three bytes of an instruction stored at the program counter, for
`State.withFetchWord`. -/
def State.placeWord (s : State) (nbits w : Nat) : State :=
  ((s.write s.pc (wordByte nbits w 0)).write (s.pc + 1) (wordByte nbits w 1)).write (s.pc + 2) (wordByte nbits w 2)

/-! ### The end of a step (R96, R97) -/

/-- The cycles of the step are added to the counter and returned with the break indicator (R33, R96). -/
def State.retire (s : State) (cycles : Nat) (brk : Bool) : State :=
  { s with cyc := s.cyc + cycles, result := ⟨cycles, brk⟩ }

end Sys2Proof.Machine
end

