-- ==== Sys2Proof/Machine/Operands.lean ====
section
/-! DEFINITION. Operand forms: the effective address of every addressing mode, the two operand helpers of
R120, the base cycles of every instruction and the extra cycles of the reading instructions. -/

namespace Sys2Proof

open Sys2Proof.Machine

/-! ### Effective addresses (R85 to R95, R98) -/

/-- A zero-page address (R87). -/
def Machine.zeroPage (b : Byte) : Addr := b.zeroExtend 16

/-- The 16-bit pointer at a zero-page address; the address of its high byte wraps in the zero page (R94, R95). -/
def Machine.State.zeroPagePointer (s : State) (z : Byte) : Addr := word (s.read (zeroPage (z + 1))) (s.read (zeroPage z))

/-- The address an index is added to, for the modes that can cross a page (R91, R92, R95). -/
def MemOperand.base (m : MemOperand) (s : State) : Addr :=
  match m with
  | .zp a => zeroPage a
  | .zpx b => zeroPage (b + s.x)
  | .zpy b => zeroPage (b + s.y)
  | .abs a => a
  | .absx b => b
  | .absy b => b
  | .indx b => s.zeroPagePointer (b + s.x)
  | .indy b => s.zeroPagePointer b

/-- The index added to a mode's base address: only ABSX, ABSY and INDY have one (R91, R92, R95). -/
def MemOperand.index (m : MemOperand) (s : State) : Byte :=
  match m with
  | .zp _ | .zpx _ | .zpy _ | .abs _ | .indx _ => 0
  | .absx _ => s.x
  | .absy _ => s.y
  | .indy _ => s.y

/-- `ea_<MODE>()`: the effective address of a memory operand (R87 to R92, R94, R95). -/
def MemOperand.ea (m : MemOperand) (s : State) : Addr := m.base s + (m.index s).zeroExtend 16

/-- `crossed`: the index changed the page. Only ABSX, ABSY and INDY can (R91, R92, R95). -/
def MemOperand.crossed (m : MemOperand) (s : State) : Bool := pageCrossed (m.base s) (m.ea s)

/-- Where `JMP (ptr)` reads the target's high byte, by the parameter `JMP_IND_PAGE_WRAP` (R93). -/
def Machine.pointerHighAddr (pageWrap : Bool) (ptr : Addr) : Addr :=
  match pageWrap with
  | true => word (hi ptr) (lo ptr + 1)
  | false => ptr + 1

/-- `ea_IND()` for a value of the parameter (R93). -/
def Machine.State.indirectTarget (s : State) (pageWrap : Bool) (ptr : Addr) : Addr :=
  word (s.read (pointerHighAddr pageWrap ptr)) (s.read ptr)

/-- The target of a jump (R90, R93, R180). -/
def JumpOperand.target (o : JumpOperand) (s : State) : Addr :=
  match o with
  | .abs a => a
  | .ind ptr => s.indirectTarget Config.jmpIndPageWrap ptr

/-- `ea_REL()`: the target of a branch, from the address after the branch (R98). -/
def Machine.branchTarget (next : Addr) (off : Byte) : Addr := next + sext16 off

/-! ### Operand values (R120) -/

/-- `readOperand(mode)`: the value of an operand that is only read (R120). -/
def ReadOperand.value (o : ReadOperand) (s : State) : Byte :=
  match o with
  | .imm v => v
  | .mem m => s.read (m.ea s)

/-- The cycle that a page crossing adds to an instruction that only reads its operand (R99, R120). -/
def ReadOperand.extra (o : ReadOperand) (s : State) : Nat :=
  match o with
  | .imm _ => 0
  | .mem m => if m.crossed s then 1 else 0

/-- The input of a shift or rotate, `get` (`42_logic_shift.md` section 3). -/
def ShiftOperand.value (o : ShiftOperand) (s : State) : Byte :=
  match o with
  | .acc => s.a
  | .mem m => s.read (m.ea s)

/-- The output of a shift or rotate, `put` (`42_logic_shift.md` section 3). -/
def ShiftOperand.store (o : ShiftOperand) (s : State) (r : Byte) : State :=
  match o with
  | .acc => s.setReg .A r
  | .mem m => s.write (m.ea s) r

/-! ### Base cycles (R97, R101) -/

/-- Base cycles of the instructions that read a memory operand (R101). -/
def MemOperand.readCycles : MemOperand → Nat
  | .zp _ => 3
  | .zpx _ | .zpy _ => 4
  | .abs _ | .absx _ | .absy _ => 4
  | .indx _ => 6
  | .indy _ => 5

/-- Base cycles of the stores: the indexed forms hold the page-cross cycle already (R99, R101). -/
def MemOperand.storeCycles : MemOperand → Nat
  | .zp _ => 3
  | .zpx _ | .zpy _ => 4
  | .abs _ => 4
  | .absx _ | .absy _ => 5
  | .indx _ | .indy _ => 6

/-- Base cycles of the read-modify-write instructions on memory (R99, R101): two more than a store. -/
def MemOperand.rmwCycles (m : MemOperand) : Nat := m.storeCycles + 2

/-- Base cycles of a reading instruction (R101). -/
def ReadOperand.cycles : ReadOperand → Nat
  | .imm _ => 2
  | .mem m => m.readCycles

/-- Base cycles of a shift or rotate (R101). -/
def ShiftOperand.cycles : ShiftOperand → Nat
  | .acc => 2
  | .mem m => m.rmwCycles

/-- Base cycles of JMP (R101, R180). -/
def JumpOperand.cycles : JumpOperand → Nat
  | .abs _ => 3
  | .ind _ => 5

/-- The base cycles of an instruction, as the Encoding line of its rule gives them (R97, R101). -/
def Machine.baseCycles : Instr → Nat
  | .lda o | .ldx o | .ldy o => o.cycles
  | .adc o | .sbc o | .cmp o | .cpx o | .cpy o => o.cycles
  | .and o | .ora o | .eor o => o.cycles
  | .bit m => m.readCycles
  | .sta m | .stx m | .sty m => m.storeCycles
  | .inc m | .dec m => m.rmwCycles
  | .asl o | .lsr o | .rol o | .ror o => o.cycles
  | .tax | .tay | .txa | .tya | .tsx | .txs => 2
  | .inx | .iny | .dex | .dey => 2
  | .jmp o => o.cycles
  | .jsr _ => 6
  | .rts => 6
  | .bcc _ | .bcs _ | .beq _ | .bne _ | .bmi _ | .bpl _ | .bvc _ | .bvs _ => 2
  | .pha | .php => 3
  | .pla | .plp => 4
  | .clc | .sec | .cli | .sei | .cld | .sed | .clv => 2
  | .brk => 7
  | .rti => 6
  | .nop => 2
  | .und _ => Config.undefBaseCycles

/-- The break indicator of a step's result: true exactly for BRK (R33). -/
def Machine.isBreak : Instr → Bool
  | .brk => true
  | _ => false

/-- The end of the step of an instruction: base and extra cycles, and the break indicator
(R33, R96, R97). -/
def Machine.State.finish (s : State) (i : Instr) (extra : Nat) : State := s.retire (baseCycles i + extra) (isBreak i)

end Sys2Proof
end

