-- ==== Sys2Proof/Machine/Arithmetic.lean ====
section
/-! DEFINITION. Arithmetic, comparison, increment and decrement (`41_arithmetic.md`). -/

namespace Sys2Proof.Machine

/-- What ADC and SBC write in binary mode (R140, R142). -/
def State.binaryResult (s : State) (t : AddResult) : State :=
  ((s.load .A t.r).setFlag .C t.c).setFlag .V t.v

/-- What ADC and SBC write in decimal mode on valid BCD operands: the overflow flag is a free value (R141,
R143, U2). -/
def State.decimalResult (s : State) (t : Byte × Bool) : State :=
  (((s.load .A t.1).setFlag .C t.2).setFlag .V (Config.freeBit s.freeCtr)).drawn 1

/-- What ADC and SBC write in decimal mode when an operand is not packed BCD: A and each of C, Z, N and V
is a free value (R141, R143, U3). -/
def State.invalidDecimalResult (s : State) : State :=
  (((((s.setReg .A (Config.freeByte s.freeCtr)).setFlag .C (Config.freeBit s.freeCtr)).setFlag .Z
    (Config.freeBit (s.freeCtr + 1))).setFlag .N (Config.freeBit (s.freeCtr + 2))).setFlag .V
    (Config.freeBit (s.freeCtr + 3))).drawn 4

/-- The register effect of ADC: binary by default, decimal when D is set (R140, R141). -/
def State.addWithCarry (s : State) (m : Byte) : State :=
  match s.flag .D, validBcd s.a && validBcd m with
  | false, _ => s.binaryResult (addBinary s.a m (s.flag .C))
  | true, true => s.decimalResult (addDecimal s.a m (s.flag .C))
  | true, false => s.invalidDecimalResult

/-- The register effect of SBC: binary by default, decimal when D is set (R142, R143). -/
def State.subtractWithBorrow (s : State) (m : Byte) : State :=
  match s.flag .D, validBcd s.a && validBcd m with
  | false, _ => s.binaryResult (subBinary s.a m (s.flag .C))
  | true, true => s.decimalResult (subDecimal s.a m (s.flag .C))
  | true, false => s.invalidDecimalResult

/-- `compare(reg, m)`: only flags are written (R144). -/
def State.compare (s : State) (reg m : Byte) : State := s.setReg .P (compareFlags s.p reg m)

/-- A byte of memory replaced by a result, with N and Z (R147, R150). -/
def State.modify (s : State) (addr : Addr) (r : Byte) : State := (s.write addr r).setZN r

/-- ADC (R140, R141). -/
def execAdc (o : ReadOperand) (s : State) : StepOutcome :=
  .next (((s.pastInstr (.adc o)).addWithCarry (o.value s)).finish (.adc o) (o.extra s))

/-- SBC (R142, R143). -/
def execSbc (o : ReadOperand) (s : State) : StepOutcome :=
  .next (((s.pastInstr (.sbc o)).subtractWithBorrow (o.value s)).finish (.sbc o) (o.extra s))

/-- CMP (R144). -/
def execCmp (o : ReadOperand) (s : State) : StepOutcome :=
  .next (((s.pastInstr (.cmp o)).compare s.a (o.value s)).finish (.cmp o) (o.extra s))

/-- CPX (R145). -/
def execCpx (o : ReadOperand) (s : State) : StepOutcome :=
  .next (((s.pastInstr (.cpx o)).compare s.x (o.value s)).finish (.cpx o) (o.extra s))

/-- CPY (R146). -/
def execCpy (o : ReadOperand) (s : State) : StepOutcome :=
  .next (((s.pastInstr (.cpy o)).compare s.y (o.value s)).finish (.cpy o) (o.extra s))

/-- INC: one read and one write of the cell; N, Z (R147). -/
def execInc (m : MemOperand) (s : State) : StepOutcome :=
  .next (((s.pastInstr (.inc m)).modify (m.ea s) (s.read (m.ea s) + 1)).finish (.inc m) 0)

/-- DEC: one read and one write of the cell; N, Z (R150). -/
def execDec (m : MemOperand) (s : State) : StepOutcome :=
  .next (((s.pastInstr (.dec m)).modify (m.ea s) (s.read (m.ea s) - 1)).finish (.dec m) 0)

/-- INX (R148). -/
def execInx (s : State) : StepOutcome :=
  .next (((s.pastInstr .inx).load .X (s.x + 1)).finish .inx 0)

/-- INY (R149). -/
def execIny (s : State) : StepOutcome :=
  .next (((s.pastInstr .iny).load .Y (s.y + 1)).finish .iny 0)

/-- DEX (R151). -/
def execDex (s : State) : StepOutcome :=
  .next (((s.pastInstr .dex).load .X (s.x - 1)).finish .dex 0)

/-- DEY (R152). -/
def execDey (s : State) : StepOutcome :=
  .next (((s.pastInstr .dey).load .Y (s.y - 1)).finish .dey 0)

end Sys2Proof.Machine
end

