-- ==== Sys2Proof/Machine/Control.lean ====
section
/-! DEFINITION. Jumps, subroutines and conditional branches (`43_control_flow.md`). -/

namespace Sys2Proof.Machine

/-- The common rule of the eight branches (R183): one cycle more when taken, and one more when the
target lies in another page than the byte after the branch. -/
def State.branch (s : State) (i : Instr) (off : Byte) (taken : Bool) : State :=
  let next := (s.pastInstr i).pc
  let target := branchTarget next off
  match taken with
  | true => (s.setPC target).finish i (if pageCrossed next target then 2 else 1)
  | false => (s.setPC next).finish i 0

/-- JMP (R180). -/
def execJmp (o : JumpOperand) (s : State) : StepOutcome :=
  .next ((s.setPC (o.target s)).finish (.jmp o) 0)

/-- JSR: the address of its own last byte is pushed, high byte first (R181). -/
def execJsr (target : Addr) (s : State) : StepOutcome :=
  .next ((((s.pastInstr (.jsr target)).pushWord ((s.pastInstr (.jsr target)).pc - 1)).setPC target).finish (.jsr target) 0)

/-- RTS: to the pulled address plus one (R182). -/
def execRts (s : State) : StepOutcome :=
  .next ((s.poppedWord.setPC (s.pulledWord + 1)).finish .rts 0)

/-- BCC: taken when C = 0 (R184). -/
def execBcc (off : Byte) (s : State) : StepOutcome :=
  .next (s.branch (.bcc off) off (!s.flag .C))

/-- BCS: taken when C = 1 (R185). -/
def execBcs (off : Byte) (s : State) : StepOutcome :=
  .next (s.branch (.bcs off) off (s.flag .C))

/-- BEQ: taken when Z = 1 (R186). -/
def execBeq (off : Byte) (s : State) : StepOutcome :=
  .next (s.branch (.beq off) off (s.flag .Z))

/-- BNE: taken when Z = 0 (R187). -/
def execBne (off : Byte) (s : State) : StepOutcome :=
  .next (s.branch (.bne off) off (!s.flag .Z))

/-- BMI: taken when N = 1 (R188). -/
def execBmi (off : Byte) (s : State) : StepOutcome :=
  .next (s.branch (.bmi off) off (s.flag .N))

/-- BPL: taken when N = 0 (R189). -/
def execBpl (off : Byte) (s : State) : StepOutcome :=
  .next (s.branch (.bpl off) off (!s.flag .N))

/-- BVC: taken when V = 0 (R190). -/
def execBvc (off : Byte) (s : State) : StepOutcome :=
  .next (s.branch (.bvc off) off (!s.flag .V))

/-- BVS: taken when V = 1 (R191). -/
def execBvs (off : Byte) (s : State) : StepOutcome :=
  .next (s.branch (.bvs off) off (s.flag .V))

end Sys2Proof.Machine
end

