-- ==== Sys2Proof/Machine/LoadStore.lean ====
section
/-! DEFINITION. Loads, stores and register transfers (`40_load_store_transfer.md`). -/

namespace Sys2Proof.Machine

/-- LDA: A takes the operand; N, Z (R121). -/
def execLda (o : ReadOperand) (s : State) : StepOutcome :=
  .next (((s.pastInstr (.lda o)).load .A (o.value s)).finish (.lda o) (o.extra s))

/-- LDX: X takes the operand; N, Z (R122). -/
def execLdx (o : ReadOperand) (s : State) : StepOutcome :=
  .next (((s.pastInstr (.ldx o)).load .X (o.value s)).finish (.ldx o) (o.extra s))

/-- LDY: Y takes the operand; N, Z (R123). -/
def execLdy (o : ReadOperand) (s : State) : StepOutcome :=
  .next (((s.pastInstr (.ldy o)).load .Y (o.value s)).finish (.ldy o) (o.extra s))

/-- STA: A is stored; no flag, never an extra cycle (R124). -/
def execSta (m : MemOperand) (s : State) : StepOutcome :=
  .next (((s.pastInstr (.sta m)).write (m.ea s) s.a).finish (.sta m) 0)

/-- STX: X is stored; no flag, never an extra cycle (R125). -/
def execStx (m : MemOperand) (s : State) : StepOutcome :=
  .next (((s.pastInstr (.stx m)).write (m.ea s) s.x).finish (.stx m) 0)

/-- STY: Y is stored; no flag, never an extra cycle (R126). -/
def execSty (m : MemOperand) (s : State) : StepOutcome :=
  .next (((s.pastInstr (.sty m)).write (m.ea s) s.y).finish (.sty m) 0)

/-- TAX: X takes A; N, Z (R127). -/
def execTax (s : State) : StepOutcome :=
  .next (((s.pastInstr .tax).load .X s.a).finish .tax 0)

/-- TAY: Y takes A; N, Z (R128). -/
def execTay (s : State) : StepOutcome :=
  .next (((s.pastInstr .tay).load .Y s.a).finish .tay 0)

/-- TXA: A takes X; N, Z (R129). -/
def execTxa (s : State) : StepOutcome :=
  .next (((s.pastInstr .txa).load .A s.x).finish .txa 0)

/-- TYA: A takes Y; N, Z (R130). -/
def execTya (s : State) : StepOutcome :=
  .next (((s.pastInstr .tya).load .A s.y).finish .tya 0)

/-- TSX: X takes SP; N, Z (R131). -/
def execTsx (s : State) : StepOutcome :=
  .next (((s.pastInstr .tsx).load .X s.sp).finish .tsx 0)

/-- TXS: SP takes X; no flag (R132). -/
def execTxs (s : State) : StepOutcome :=
  .next (((s.pastInstr .txs).setReg .SP s.x).finish .txs 0)

end Sys2Proof.Machine
end

