-- ==== Sys2Proof/Machine/Logic.lean ====
section
/-! DEFINITION. Logic, bit test, shifts and rotates (`42_logic_shift.md`). -/

namespace Sys2Proof.Machine

/-- What a shift or rotate leaves: the carry, the result where the operand came from, N and Z
(`42_logic_shift.md` section 3). -/
def State.putShift (s : State) (o : ShiftOperand) (t : ShiftResult) : State :=
  ((o.store s t.r).setFlag .C t.c).setZN t.r

/-- AND (R160). -/
def execAnd (o : ReadOperand) (s : State) : StepOutcome :=
  .next (((s.pastInstr (.and o)).load .A (s.a &&& o.value s)).finish (.and o) (o.extra s))

/-- ORA (R161). -/
def execOra (o : ReadOperand) (s : State) : StepOutcome :=
  .next (((s.pastInstr (.ora o)).load .A (s.a ||| o.value s)).finish (.ora o) (o.extra s))

/-- EOR (R162). -/
def execEor (o : ReadOperand) (s : State) : StepOutcome :=
  .next (((s.pastInstr (.eor o)).load .A (s.a ^^^ o.value s)).finish (.eor o) (o.extra s))

/-- BIT: Z from A and the operand, N and V from the operand alone (R163). -/
def execBit (m : MemOperand) (s : State) : StepOutcome :=
  .next (((s.pastInstr (.bit m)).setReg .P (bitFlags s.p s.a (s.read (m.ea s)))).finish (.bit m) 0)

/-- ASL (R164). -/
def execAsl (o : ShiftOperand) (s : State) : StepOutcome :=
  .next (((s.pastInstr (.asl o)).putShift o (shiftLeft (o.value s))).finish (.asl o) 0)

/-- LSR (R165). -/
def execLsr (o : ShiftOperand) (s : State) : StepOutcome :=
  .next (((s.pastInstr (.lsr o)).putShift o (shiftRight (o.value s))).finish (.lsr o) 0)

/-- ROL (R166). -/
def execRol (o : ShiftOperand) (s : State) : StepOutcome :=
  .next (((s.pastInstr (.rol o)).putShift o (rotateLeft (o.value s) (s.flag .C))).finish (.rol o) 0)

/-- ROR (R167). -/
def execRor (o : ShiftOperand) (s : State) : StepOutcome :=
  .next (((s.pastInstr (.ror o)).putShift o (rotateRight (o.value s) (s.flag .C))).finish (.ror o) 0)

end Sys2Proof.Machine
end

