-- ==== Sys2Proof/Machine/StackFlags.lean ====
section
/-! DEFINITION. Stack and flag instructions (`44_stack_flags.md`). -/

namespace Sys2Proof.Machine

/-- PHA (R200). -/
def execPha (s : State) : StepOutcome :=
  .next (((s.pastInstr .pha).push s.a).finish .pha 0)

/-- PLA: A takes the pulled byte; N, Z (R201). -/
def execPla (s : State) : StepOutcome :=
  .next (((s.pastInstr .pla).popped.load .A s.pulled).finish .pla 0)

/-- PHP: the status with bits 4 and 5 set is pushed; the register is unchanged (R29, R202). -/
def execPhp (s : State) : StepOutcome :=
  .next (((s.pastInstr .php).push (pushedStatus s.p)).finish .php 0)

/-- PLP: six flags from the pulled byte, bits 4 and 5 kept (R30, R203). -/
def execPlp (s : State) : StepOutcome :=
  .next (((s.pastInstr .plp).popped.setReg .P (pulledStatus s.p s.pulled)).finish .plp 0)

/-- CLC: C becomes 0 (R204). -/
def execClc (s : State) : StepOutcome :=
  .next (((s.pastInstr .clc).setFlag .C false).finish .clc 0)

/-- SEC: C becomes 1 (R205). -/
def execSec (s : State) : StepOutcome :=
  .next (((s.pastInstr .sec).setFlag .C true).finish .sec 0)

/-- CLI: I becomes 0 (R206). -/
def execCli (s : State) : StepOutcome :=
  .next (((s.pastInstr .cli).setFlag .I false).finish .cli 0)

/-- SEI: I becomes 1 (R207). -/
def execSei (s : State) : StepOutcome :=
  .next (((s.pastInstr .sei).setFlag .I true).finish .sei 0)

/-- CLD: D becomes 0 (R208). -/
def execCld (s : State) : StepOutcome :=
  .next (((s.pastInstr .cld).setFlag .D false).finish .cld 0)

/-- SED: D becomes 1 (R209). -/
def execSed (s : State) : StepOutcome :=
  .next (((s.pastInstr .sed).setFlag .D true).finish .sed 0)

/-- CLV: V becomes 0 (R210). -/
def execClv (s : State) : StepOutcome :=
  .next (((s.pastInstr .clv).setFlag .V false).finish .clv 0)

end Sys2Proof.Machine
end

