-- ==== Sys2Proof/Machine/System.lean ====
section
/-! DEFINITION. Break, return from interrupt, no-operation and the undefined opcodes (`45_system.md`). -/

namespace Sys2Proof.Machine

/-- BRK: the trap is taken; the return address is two past the BRK opcode (R220). -/
def execBrk (s : State) : StepOutcome :=
  .next (((s.pastInstr .brk).takeBreak ((s.pastInstr .brk).pc + 1)).finish .brk 0)

/-- RTI: the return from the trap (R221). -/
def execRti (s : State) : StepOutcome :=
  .next (s.returnFromBreak.finish .rti 0)

/-- NOP: nothing but the program counter and the cycles (R222). -/
def execNop (s : State) : StepOutcome :=
  .next ((s.pastInstr .nop).finish .nop 0)

/-- UND: an undefined opcode is a silent one-byte no-op costing `UNDEF_BASE_CYCLES` (R103, R223). -/
def execUnd (op : Byte) (s : State) : StepOutcome :=
  .next ((s.pastInstr (.und op)).finish (.und op) 0)

end Sys2Proof.Machine
end

