-- ==== Sys2Proof/Machine/Step.lean ====
section
/-! DEFINITION. One step of the machine (`30_encoding.md` R96) and the way an instruction is put where the
next step fetches it. -/

namespace Sys2Proof.Machine

/-- `Step()`: the instruction at the program counter is fetched, decoded and executed to completion (R96).
What the step returns is `State.result` of the next state (R33). -/
def step (s : State) : Host.Outcome State Fault Refusal := exec s.fetchInstr s

/-- The state with the instruction `w` of `nbits` bits stored at the program counter (three bytes, zero
above `nbits`), so that the next step runs exactly it. Nothing but those bytes changes. -/
def State.withFetchWord (s : State) (nbits w : Nat) : State := s.placeWord nbits w

end Sys2Proof.Machine
end

