-- ==== Sys2Proof/Machine/Text.lean ====
section
/-! DEFINITION. Text as lists of characters: the helpers the disassembler and the assembler share. -/

namespace Sys2Proof.Machine

/-- A text as its characters. -/
abbrev Chars := List Char

/-- The upper-case hexadecimal digit of a number below 16 (R237). -/
def hexDigit (n : Nat) : Char := ("0123456789ABCDEF".toList).getD n '?'

/-- A byte as two upper-case hexadecimal digits (R234, R237). -/
def hexByte (b : Byte) : Chars := [hexDigit (b.toNat / 16), hexDigit (b.toNat % 16)]

/-- A word as four upper-case hexadecimal digits (R234, R237). -/
def hexWord (w : Addr) : Chars := hexByte (hi w) ++ hexByte (lo w)

/-- The name of a mnemonic, upper case (R100, R237). -/
def Mnemonic.name (mn : Mnemonic) : String :=
  match mn with
  | .LDA => "LDA" | .LDX => "LDX" | .LDY => "LDY" | .STA => "STA" | .STX => "STX" | .STY => "STY"
  | .TAX => "TAX" | .TAY => "TAY" | .TXA => "TXA" | .TYA => "TYA" | .TSX => "TSX" | .TXS => "TXS"
  | .ADC => "ADC" | .SBC => "SBC" | .CMP => "CMP" | .CPX => "CPX" | .CPY => "CPY"
  | .INC => "INC" | .INX => "INX" | .INY => "INY" | .DEC => "DEC" | .DEX => "DEX" | .DEY => "DEY"
  | .AND => "AND" | .ORA => "ORA" | .EOR => "EOR" | .BIT => "BIT"
  | .ASL => "ASL" | .LSR => "LSR" | .ROL => "ROL" | .ROR => "ROR"
  | .JMP => "JMP" | .JSR => "JSR" | .RTS => "RTS"
  | .BCC => "BCC" | .BCS => "BCS" | .BEQ => "BEQ" | .BNE => "BNE"
  | .BMI => "BMI" | .BPL => "BPL" | .BVC => "BVC" | .BVS => "BVS"
  | .PHA => "PHA" | .PLA => "PLA" | .PHP => "PHP" | .PLP => "PLP"
  | .CLC => "CLC" | .SEC => "SEC" | .CLI => "CLI" | .SEI => "SEI" | .CLD => "CLD" | .SED => "SED" | .CLV => "CLV"
  | .BRK => "BRK" | .RTI => "RTI" | .NOP => "NOP" | .UND => "UND"

/-- The load, store and transfer mnemonics (R100). -/
def loadStoreMnemonics : List Mnemonic := [.LDA, .LDX, .LDY, .STA, .STX, .STY, .TAX, .TAY, .TXA, .TYA, .TSX, .TXS]

/-- The arithmetic mnemonics (R100). -/
def arithmeticMnemonics : List Mnemonic := [.ADC, .SBC, .CMP, .CPX, .CPY, .INC, .INX, .INY, .DEC, .DEX, .DEY]

/-- The logic and shift mnemonics (R100). -/
def logicMnemonics : List Mnemonic := [.AND, .ORA, .EOR, .BIT, .ASL, .LSR, .ROL, .ROR]

/-- The control-flow mnemonics (R100). -/
def controlMnemonics : List Mnemonic := [.JMP, .JSR, .RTS, .BCC, .BCS, .BEQ, .BNE, .BMI, .BPL, .BVC, .BVS]

/-- The stack and flag mnemonics (R100). -/
def stackFlagMnemonics : List Mnemonic := [.PHA, .PLA, .PHP, .PLP, .CLC, .SEC, .CLI, .SEI, .CLD, .SED, .CLV]

/-- The system mnemonics (R100). -/
def systemMnemonics : List Mnemonic := [.BRK, .RTI, .NOP]

/-- The 56 real mnemonics (R100). -/
def realMnemonics : List Mnemonic :=
  loadStoreMnemonics ++ arithmeticMnemonics ++ logicMnemonics ++
  controlMnemonics ++ stackFlagMnemonics ++ systemMnemonics

/-- The real mnemonic of a name in upper case, or nothing (R258). -/
def mnemonicOf (name : Chars) : Option Mnemonic := realMnemonics.find? (fun mn => (Mnemonic.name mn).toList == name)

/-- White space: blank, tab and the line-end characters. -/
def isBlank (c : Char) : Bool := c == ' ' || c == '\t' || c == '\r' || c == '\n'

/-- A text without its leading and trailing white space. -/
def trim (t : Chars) : Chars := ((t.dropWhile isBlank).reverse.dropWhile isBlank).reverse

/-- The pieces of a text between the occurrences of a separator; always at least one piece. -/
def splitOn (sep : Char) : Chars → List Chars
  | [] => [[]]
  | c :: cs =>
    if c = sep then [] :: splitOn sep cs
    else match splitOn sep cs with
      | [] => [[c]]
      | w :: ws => (c :: w) :: ws

/-- The text before and after the first occurrence of a separator, or nothing where it does not occur. -/
def splitFirst (sep : Char) : Chars → Option (Chars × Chars)
  | [] => none
  | c :: cs => if c = sep then some ([], cs) else (splitFirst sep cs).map (fun p => (c :: p.1, p.2))

/-- The first word of a trimmed line (R258). DESIGN CHOICE: white space alone ends it, so `LDA#$01` is one word
(log entry 23). -/
def firstWord (t : Chars) : Chars := t.takeWhile (fun c => !isBlank c)

/-- What follows the first word of a trimmed line, trimmed. -/
def afterFirstWord (t : Chars) : Chars := trim (t.dropWhile (fun c => !isBlank c))

/-- The value of a hexadecimal digit in upper case (R252). -/
def hexValue (c : Char) : Option Nat :=
  if '0' ≤ c ∧ c ≤ '9' then some (c.toNat - 48) else if 'A' ≤ c ∧ c ≤ 'F' then some (c.toNat - 55) else none

/-- The number that digits of a base denote, after a number already read; nothing where a character is no
digit of the base. -/
def digitsValue (base : Nat) : Nat → Chars → Option Nat
  | acc, [] => some acc
  | acc, c :: cs =>
    match hexValue c with
    | some d => if d < base then digitsValue base (acc * base + d) cs else none
    | none => none

/-- One or more digits of a base. -/
def number (base : Nat) (t : Chars) : Option Nat := if t.isEmpty then none else digitsValue base 0 t

/-- A numeric literal: `$` hexadecimal, `%` binary, bare digits decimal; the count of digits carries no
meaning (R252). -/
def literal (t : Chars) : Option Nat :=
  match t with
  | '$' :: ds => number 16 ds
  | '%' :: ds => number 2 ds
  | ds => number 10 ds

/-- A literal with a value up to a limit: 255 for a byte, 65535 for a word (R252). -/
def literalUpTo (limit : Nat) (t : Chars) : Option Nat := (literal t).filter (· ≤ limit)

/-- A letter of a label name, in upper case (R255). -/
def isNameStart (c : Char) : Bool := ('A' ≤ c && c ≤ 'Z') || c == '_'

/-- A label name: a letter or `_`, then letters, digits or `_` (R255, D24). -/
def isLabelName (t : Chars) : Bool :=
  match t with
  | [] => false
  | c :: cs => isNameStart c && cs.all (fun d => isNameStart d || ('0' ≤ d && d ≤ '9'))

end Sys2Proof.Machine
end

