-- ==== Sys2Proof/Machine/Assembler.lean ====
section
/-! DEFINITION. The assembler: a pure function from source text to bytes (`49_assembler.md`). It reads and
changes no state. -/

namespace Sys2Proof.Machine

/-! ### Errors (R276) -/

/-- Why a line is refused with `SyntaxError` (R276, U10, U11). The spec leaves the reason's text free. -/
inductive SyntaxReason where
  | badString | unknownMnemonic | noAddressingMode | badImmediate | badByteLiteral | badConstant | duplicateConstant
  | badLabelName | duplicateLabel | cursorPastEnd
  deriving DecidableEq, Repr

/-- Why a line is refused with `LabelError` (R276). -/
inductive LabelReason where
  | undeclared | branchOutOfRange
  deriving DecidableEq, Repr

/-- `SyntaxError(line, reason)` and `LabelError(line, reason)` (R15, R276). -/
inductive AsmError where
  | syntaxError (line : Nat) (reason : SyntaxReason)
  | labelError (line : Nat) (reason : LabelReason)
  deriving DecidableEq, Repr

/-! ### The addressing resolver (R259 to R265) -/

/-- The byte of a label's address that an immediate takes (R261). -/
inductive Selector where
  | low | high
  deriving DecidableEq, Repr

/-- The value part of an `AddressingInfo`: none, a literal number, or a label with its selector (R259). -/
inductive OperandValue where
  | none
  | literal (n : Nat)
  | label (name : Chars) (selector : Option Selector)
  deriving DecidableEq, Repr

/-- `AddressingInfo` together with the slot that the matching check selects (R259). -/
structure AddressingInfo where
  slot  : Slot
  value : OperandValue
  deriving DecidableEq, Repr

/-- The slot is one the mnemonic's group supports (R259, D23). -/
def hasSlot (mn : Mnemonic) (sl : Slot) : Bool := (opcodeFor mn sl).isSome

/-- A check's match, kept only if the slot it selects is supported (R259, D23). -/
def gated (mn : Mnemonic) (info : AddressingInfo) : Option AddressingInfo :=
  if hasSlot mn info.slot then some info else none

/-- The optional index register that follows an operand. -/
inductive IndexReg where
  | none | X | Y
  deriving DecidableEq, Repr

/-- An operand split into its base text and its index register, `base[,X|Y]` (R262, R263). -/
def splitIndex (t : Chars) : Option (Chars × IndexReg) :=
  match splitOn ',' t with
  | [b] => some (b, .none)
  | [b, ['X']] => some (b, .X)
  | [b, ['Y']] => some (b, .Y)
  | _ => Option.none

/-- Check 1, no operand or accumulator (R260). -/
def checkSingle (mn : Mnemonic) (t : Chars) : Option AddressingInfo :=
  if t = [] ∨ t = ['A'] then gated mn ⟨.SNGL, .none⟩ else none

/-- Check 2, immediate, on the text after `#`: it never falls through (R261). -/
def checkImmediate (mn : Mnemonic) (t : Chars) : Except SyntaxReason AddressingInfo :=
  if !hasSlot mn .IMM then .error .badImmediate
  else match t with
    | '<' :: l => if isLabelName l then .ok ⟨.IMM, .label l (some .low)⟩ else .error .badImmediate
    | '>' :: l => if isLabelName l then .ok ⟨.IMM, .label l (some .high)⟩ else .error .badImmediate
    | t => match literalUpTo 255 t with
      | some n => .ok ⟨.IMM, .literal n⟩
      | none => .error .badImmediate

/-- The zero-page slot of an index (R262). -/
def IndexReg.zeroPageSlot : IndexReg → Slot
  | .none => .ZP
  | .X => .ZPX
  | .Y => .ZPY

/-- The absolute slot of an index (R263). -/
def IndexReg.absoluteSlot : IndexReg → Slot
  | .none => .ABS
  | .X => .ABSX
  | .Y => .ABSY

/-- Check 3, zero page: the value decides, not the number of digits (R262). -/
def checkZeroPage (mn : Mnemonic) (t : Chars) : Option AddressingInfo := do
  let (b, ix) ← splitIndex t
  let n ← literalUpTo 255 b
  gated mn ⟨ix.zeroPageSlot, .literal n⟩

/-- Check 4, absolute: a label or a word (R263). -/
def checkAbsolute (mn : Mnemonic) (t : Chars) : Option AddressingInfo := do
  let (b, ix) ← splitIndex t
  if isLabelName b then gated mn ⟨ix.absoluteSlot, .label b none⟩
  else
    let n ← literalUpTo 65535 b
    gated mn ⟨ix.absoluteSlot, .literal n⟩

/-- The text before a final `)`, or nothing. -/
def beforeParen (t : Chars) : Option Chars :=
  match t.reverse with
  | ')' :: r => some r.reverse
  | _ => none

/-- Check 5, indirect: `(word)`, `(byte,X)` and `(byte),Y` (R264). -/
def checkIndirect (mn : Mnemonic) (t : Chars) : Option AddressingInfo :=
  match t with
  | '(' :: r =>
    match splitOn ',' r with
    | [p] => do
      let w ← beforeParen p
      let n ← literalUpTo 65535 w
      gated mn ⟨.IND, .literal n⟩
    | [b, ['X', ')']] => do
      let n ← literalUpTo 255 b
      gated mn ⟨.INDX, .literal n⟩
    | [p, ['Y']] => do
      let b ← beforeParen p
      let n ← literalUpTo 255 b
      gated mn ⟨.INDY, .literal n⟩
    | _ => none
  | _ => none

/-- Check 6, branch: a label or a word, the target address (R265, D27). -/
def checkBranch (mn : Mnemonic) (t : Chars) : Option AddressingInfo :=
  if isLabelName t then gated mn ⟨.BRA, .label t none⟩
  else do
    let n ← literalUpTo 65535 t
    gated mn ⟨.BRA, .literal n⟩

/-- The six checks in strict precedence order; the first match wins (R259). -/
def resolve (mn : Mnemonic) (t : Chars) : Except SyntaxReason AddressingInfo :=
  match checkSingle mn t, t with
  | some info, _ => .ok info
  | none, '#' :: r => checkImmediate mn r
  | none, t =>
    match (checkZeroPage mn t <|> checkAbsolute mn t <|> checkIndirect mn t <|> checkBranch mn t) with
    | some info => .ok info
    | none => .error .noAddressingMode

/-! ### Source lines (R251, R257) -/

/-- A text in upper case except inside double-quoted strings (R251). DESIGN CHOICE: the letters a to z change and
no letter outside ASCII does (log entry 21). -/
def upperOutsideStrings : Bool → Chars → Chars
  | _, [] => []
  | inString, c :: cs =>
    if c = '"' then c :: upperOutsideStrings (!inString) cs
    else (if inString then c else c.toUpper) :: upperOutsideStrings inString cs

/-- A character that a string may hold: none of `;`, `:`, `,`, the double quote (R251) and the backslash, with which
an escape would begin (U11). -/
def isStringChar (c : Char) : Bool := !([';', ':', ',', '"', '\\'].contains c)

/-- Where a reading of a line for its strings stands: outside of them, inside one, or directly after the closing
quote of one. -/
inductive QuotePlace where
  | outside | inside | closed
  deriving DecidableEq, Repr

/-- Every string of the text, read on from a place, is closed, holds only characters it may hold, and is followed
by no quote, since a doubled quote would be an escape (R251, U11). The text after a `;` is gone by then, so a string
that held one is not closed. -/
def stringsAllowed : QuotePlace → Chars → Bool
  | place, [] => place != .inside
  | .outside, c :: cs => stringsAllowed (if c = '"' then .inside else .outside) cs
  | .inside, c :: cs => if c = '"' then stringsAllowed .closed cs else isStringChar c && stringsAllowed .inside cs
  | .closed, c :: cs => c != '"' && stringsAllowed .outside cs

/-- A source line without its comment, in upper case outside strings, trimmed (R251). -/
def cleanLine (t : Chars) : Chars := trim (upperOutsideStrings false (t.takeWhile (· ≠ ';')))

/-- A text with the first occurrence of a name replaced by a value, word boundaries ignored (R257). -/
def replaceFirst (name value : Chars) : Chars → Chars
  | [] => []
  | c :: cs => if name.isPrefixOf (c :: cs) then value ++ (c :: cs).drop name.length else c :: replaceFirst name value cs

/-- The constants applied to an operand, each once, in order of definition (R257, D29). -/
def substitute (consts : List (Chars × Chars)) (t : Chars) : Chars := consts.foldl (fun t c => replaceFirst c.1 c.2 t) t

/-- The operand text of an instruction line: constants substituted, then white space removed (R251, R258). -/
def operandOf (consts : List (Chars × Chars)) (t : Chars) : Chars := (substitute consts t).filter (fun c => !isBlank c)

/-- The bytes of one item of a byte-literal line: a byte, or the characters of a string, each its code
point mod 256 (R256); a string holds only the characters it may hold (R251, U11). -/
def byteItem (t : Chars) : Option (List Byte) :=
  match t with
  | '"' :: r =>
    match r.reverse with
    | '"' :: s => if s.all isStringChar then some (s.reverse.map (fun c => BitVec.ofNat 8 c.toNat)) else none
    | _ => none
  | t => (literalUpTo 255 t).map (fun n => [BitVec.ofNat 8 n])

/-- The bytes of the comma-separated items of a byte-literal line (R256). -/
def byteItems (t : Chars) : Option (List Byte) := ((splitOn ',' t).mapM (fun w => byteItem (trim w))).map List.flatten

/-- The value of an origin-set line, `*= word` or `ORG word` (R254), or nothing where the line is none. -/
def originOf (t : Chars) : Option Nat :=
  match t with
  | '*' :: r =>
    match trim r with
    | '=' :: w => literalUpTo 65535 (trim w)
    | _ => none
  | t => if firstWord t = ['O', 'R', 'G'] then literalUpTo 65535 (afterFirstWord t) else none

/-- The keyword of a constant definition (R257). -/
def isDefine (w : Chars) : Bool := w == ['D', 'E', 'F', 'I', 'N', 'E'] || w == ['D', 'E', 'F']

/-! ### Pass 1 (R253 to R258, R266 to R268) -/

/-- `MetaInstruction` (R266). -/
structure MetaInstruction where
  operation : Chars
  operand   : Chars
  line      : Nat
  address   : Nat
  length    : Nat
  opcode    : Option Byte
  slot      : Option Slot
  value     : Option Nat
  label     : Option Chars
  selector  : Option Selector
  data      : List Byte
  deriving DecidableEq, Repr

/-- What pass 1 carries from line to line: the address cursor, the label table (R268), the constants in
order of definition and the records made so far, latest first. -/
structure Pass1 where
  cursor : Nat
  labels : List (Chars × Nat)
  consts : List (Chars × Chars)
  metas  : List MetaInstruction
  deriving DecidableEq, Repr

/-- The record of a directive that emits the given bytes. DESIGN CHOICE: what its operation and operand texts are
(log entry 25). -/
def directive (operation operand : Chars) (line address : Nat) (data : List Byte) : MetaInstruction :=
  { operation := operation, operand := operand, line := line, address := address, length := data.length
    opcode := none, slot := none, value := none, label := none, selector := none, data := data }

/-- A record appended and the cursor advanced by its length; the cursor may not pass 0x10000 (R266, D24). -/
def Pass1.emit (st : Pass1) (m : MetaInstruction) : Except AsmError Pass1 :=
  if st.cursor + m.length > 65536 then .error (.syntaxError m.line .cursorPastEnd)
  else .ok { st with cursor := st.cursor + m.length, metas := m :: st.metas }

/-- The length of an instruction whose opcode stands in a slot (R267). -/
def Slot.length (sl : Slot) : Nat :=
  match sl with
  | .SNGL => 1
  | .IMM | .ZP | .ZPX | .ZPY | .INDX | .INDY | .BRA => 2
  | .ABS | .ABSX | .ABSY | .IND => 3

/-- The offset byte of a branch: the target less the branch's end address, which must lie in −128..127
and is not taken modulo 65536 (R265, R270). -/
def branchOffset (address target : Nat) : Option Byte :=
  let off : Int := (target : Int) - ((address : Int) + 2)
  if -128 ≤ off ∧ off ≤ 127 then some (BitVec.ofInt 8 off) else none

/-- The operand value that pass 1 resolves: a literal, a branch's literal target as its offset (R265),
or nothing. -/
def literalValue (line address : Nat) (info : AddressingInfo) : Except AsmError (Option Nat) :=
  match info.value, info.slot with
  | .literal n, .BRA =>
    match branchOffset address n with
    | some b => .ok (some b.toNat)
    | none => .error (.labelError line .branchOutOfRange)
  | .literal n, _ => .ok (some n)
  | .none, _ | .label _ _, _ => .ok none

/-- An instruction line (R258). DESIGN CHOICE: of two errors on the one line, a literal branch out of range is
reported before a cursor past 0x10000 (log entry 22). -/
def instructionLine (line : Nat) (t : Chars) (st : Pass1) : Except AsmError Pass1 :=
  match mnemonicOf (firstWord t) with
  | none => .error (.syntaxError line .unknownMnemonic)
  | some mn =>
    let operand := operandOf st.consts (afterFirstWord t)
    match resolve mn operand with
    | .error r => .error (.syntaxError line r)
    | .ok info => do
      let value ← literalValue line st.cursor info
      st.emit
        { operation := firstWord t, operand := operand, line := line, address := st.cursor
          length := Slot.length info.slot, opcode := opcodeFor mn info.slot, slot := some info.slot, value := value
          label := match info.value with | .label l _ => some l | _ => none
          selector := match info.value with | .label _ sel => sel | _ => none
          data := [] }

/-- A constant definition, `DEFINE name value` or `DEF name value` (R257). DESIGN CHOICE: a label of the same name is
no obstacle, and the constant then rewrites references to it (log entry 26). -/
def constantLine (line : Nat) (t : Chars) (st : Pass1) : Except AsmError Pass1 :=
  let name := firstWord (afterFirstWord t)
  let value := afterFirstWord (afterFirstWord t)
  if name = [] ∨ value = [] then .error (.syntaxError line .badConstant)
  else if st.consts.any (fun c => c.1 == name) then .error (.syntaxError line .duplicateConstant)
  else { st with consts := st.consts ++ [(name, value)] }.emit (directive (firstWord t) (afterFirstWord t) line st.cursor [])

/-- A label declaration (R255). DESIGN CHOICE: a constant of the same name is no obstacle (log entry 26), and the
record has the name as its operation and `:` as its operand (log entry 25). -/
def labelLine (line : Nat) (name : Chars) (st : Pass1) : Except AsmError Pass1 :=
  if !isLabelName name then .error (.syntaxError line .badLabelName)
  else if st.labels.any (fun l => l.1 == name) then .error (.syntaxError line .duplicateLabel)
  else { st with labels := st.labels ++ [(name, st.cursor)] }.emit (directive name [':'] line st.cursor [])

/-- A line without a label, classified in the order of R253. The record of an origin-set line has the address of the
cursor as the line found it (R266). DESIGN CHOICE: the texts of a directive's record are the line's first word and the
rest (log entry 25). -/
def plainLine (keyword : Chars) (line : Nat) (t : Chars) (st : Pass1) : Except AsmError Pass1 :=
  match originOf t with
  | some w => { st with cursor := w }.emit (directive (firstWord t) (afterFirstWord t) line st.cursor [])
  | none =>
    if firstWord t = keyword then
      match byteItems (afterFirstWord t) with
      | some bs => st.emit (directive keyword (afterFirstWord t) line st.cursor bs)
      | none => .error (.syntaxError line .badByteLiteral)
    else if isDefine (firstWord t) then constantLine line t st
    else instructionLine line t st

/-- A cleaned line: labels are split off one after another, and what remains is a line of its own with
the same number (R253, R255). Every label takes a character, so the line's length is fuel enough. -/
def classifyLine (keyword : Chars) (line : Nat) : Nat → Chars → Pass1 → Except AsmError Pass1
  | 0, _, st => .ok st
  | fuel + 1, t, st =>
    if t = [] then .ok st
    else match splitFirst ':' t with
      | some (name, rest) => do
        let st ← labelLine line name st
        classifyLine keyword line fuel (trim rest) st
      | none => plainLine keyword line t st

/-- A source line: cleaned, refused if it holds a string that R251 does not allow, and classified. DESIGN CHOICE:
of two errors on the one line, the string's is reported (log entry 22). -/
def sourceLine (keyword : Chars) (line : Nat) (t : Chars) (st : Pass1) : Except AsmError Pass1 :=
  if stringsAllowed .outside (cleanLine t) then
    classifyLine keyword line ((cleanLine t).length + 1) (cleanLine t) st
  else .error (.syntaxError line .badString)

/-- Pass 1 over the source lines, numbered from a given number on (R251, R266). -/
def pass1 (keyword : Chars) : Nat → List Chars → Pass1 → Except AsmError Pass1
  | _, [], st => .ok st
  | line, t :: ts, st => do
    let st ← sourceLine keyword line t st
    pass1 keyword (line + 1) ts st

/-! ### Pass 2 (R269 to R273) -/

/-- The operand bytes of a value in a slot, little endian (R271, R273). DESIGN CHOICE: a label at 0x10000 is taken
modulo 65536 (log entry 24). -/
def operandBytes (sl : Slot) (n : Nat) : List Byte :=
  match Slot.length sl with
  | 1 => []
  | 2 => [BitVec.ofNat 8 n]
  | _ => [lo (BitVec.ofNat 16 n), hi (BitVec.ofNat 16 n)]

/-- The value of a label reference: the branch offset (R270), the selected byte of the address (R272), or
the address itself (R271). DESIGN CHOICE: the selected byte of a label at 0x10000 is that of 0x0000, and a branch to it
is measured from 65536 (log entry 24). -/
def referenceValue (m : MetaInstruction) (sl : Slot) (target : Nat) : Except AsmError Nat :=
  match sl, m.selector with
  | .BRA, _ =>
    match branchOffset m.address target with
    | some b => .ok b.toNat
    | none => .error (.labelError m.line .branchOutOfRange)
  | _, some .low => .ok (lo (BitVec.ofNat 16 target)).toNat
  | _, some .high => .ok (hi (BitVec.ofNat 16 target)).toNat
  | _, none => .ok target

/-- The bytes a record emits (R269 to R273). -/
def emitMeta (labels : List (Chars × Nat)) (m : MetaInstruction) : Except AsmError (List Byte) :=
  match m.opcode, m.slot, m.label with
  | some op, some sl, none => .ok (op :: operandBytes sl (m.value.getD 0))
  | some op, some sl, some name =>
    match labels.find? (fun l => l.1 == name) with
    | none => .error (.labelError m.line .undeclared)
    | some l => do
      let n ← referenceValue m sl l.2
      .ok (op :: operandBytes sl n)
  | _, _, _ => .ok m.data

/-- Pass 2: the records in source order, their bytes concatenated (R273). -/
def pass2 (labels : List (Chars × Nat)) : List MetaInstruction → Except AsmError (List Byte)
  | [] => .ok []
  | m :: ms => do
    let bs ← emitMeta labels m
    let rest ← pass2 labels ms
    .ok (bs ++ rest)

/-- `Assemble(text, ASM_BASE)` (R250) with the byte-literal keyword as an argument: the bytes, or the one
error that aborts the assembly. -/
def assembleWith (keyword : String) (text : String) (base : Addr) : Except AsmError (List Byte) := do
  let st ← pass1 (keyword.toList.map Char.toUpper) 1 (splitOn '\n' text.toList) ⟨base.toNat, [], [], []⟩
  pass2 st.labels st.metas.reverse

/-- `Assemble(text, ASM_BASE = 0)` (R250). -/
def assemble (text : String) (base : Addr := 0) : Except AsmError (List Byte) := assembleWith Config.byteDirective text base

end Sys2Proof.Machine
end

