-- ==== Sys2Proof/Machine/Disassembler.lean ====
section
/-! DEFINITION. The disassembler: the decode table as text (`48_disassembler.md`). It reads bytes only and
changes no state. -/

namespace Sys2Proof.Machine

/-- `DisassembledInstruction` (R232): the address, the consumed bytes and the text. -/
structure DisassembledInstruction where
  address : Addr
  bytes   : List Byte
  text    : String
  deriving DecidableEq, Repr

/-- `byteAt(buf, i)`: past the end a byte reads 0x00 (R238). -/
def byteAt (buf : List Byte) (i : Nat) : Byte := buf.getD i 0x00

/-- The absolute target that a relative operand is printed as (R235). -/
def relativeTarget (address : Addr) (b1 : Byte) : Addr := address + 2 + b1.signExtend 16

/-- The operand text of a mode (R234), for an instruction at an address with first operand byte `b1` and
operand word `w`. -/
def operandText (mode : Mode) (address : Addr) (b1 : Byte) (w : Addr) : Chars :=
  match mode with
  | .IMP => []
  | .ACC => ['A']
  | .IMM => ['#', '$'] ++ hexByte b1
  | .ZP => ['$'] ++ hexByte b1
  | .ZPX => ['$'] ++ hexByte b1 ++ [',', 'X']
  | .ZPY => ['$'] ++ hexByte b1 ++ [',', 'Y']
  | .ABS => ['$'] ++ hexWord w
  | .ABSX => ['$'] ++ hexWord w ++ [',', 'X']
  | .ABSY => ['$'] ++ hexWord w ++ [',', 'Y']
  | .IND => ['(', '$'] ++ hexWord w ++ [')']
  | .INDX => ['(', '$'] ++ hexByte b1 ++ [',', 'X', ')']
  | .INDY => ['(', '$'] ++ hexByte b1 ++ [')', ',', 'Y']
  | .REL => ['$'] ++ hexWord (relativeTarget address b1)

/-- The mnemonic an opcode byte is printed with: the placeholder for an undefined one (R232, R233). -/
def mnemonicText (placeholder : String) (op : Byte) : Chars :=
  match tableMnemonic op with
  | .UND => placeholder.toList
  | mn => (Mnemonic.name mn).toList

/-- The text of an instruction: mnemonic, one space, operand (R232, R237). -/
def instructionText (placeholder : String) (op : Byte) (address : Addr) (b1 : Byte) (w : Addr) : Chars :=
  match operandText (tableMode op) address b1 w with
  | [] => mnemonicText placeholder op
  | t => mnemonicText placeholder op ++ ' ' :: t

/-- `DecodeOne(buf, off, base)` (R232) with the placeholder mnemonic as an argument. -/
def decodeOne (placeholder : String) (buf : List Byte) (off : Nat) (base : Addr) : DisassembledInstruction :=
  let op := byteAt buf off
  let address := base + BitVec.ofNat 16 off
  let b1 := byteAt buf (off + 1)
  let w := word (byteAt buf (off + 2)) b1
  { address := address
    bytes := (List.range (tableMode op).length).map (fun i => byteAt buf (off + i))
    text := String.ofList (instructionText placeholder op address b1 w) }

/-- The walk of R236 from an offset to the offset `stop`, decoding at most `fuel` instructions; every one
is at least one byte long, so `stop` less the offset is fuel enough. -/
def disassembleFrom (placeholder : String) (buf : List Byte) (base : Addr) (stop : Nat) : Nat → Nat → List DisassembledInstruction
  | 0, _ => []
  | fuel + 1, off =>
    if off < stop then
      decodeOne placeholder buf off base ::
        disassembleFrom placeholder buf base stop fuel (off + (decodeOne placeholder buf off base).bytes.length)
    else []

/-- `Disassemble(buf, base, start, stop)` (R236) with the placeholder mnemonic as an argument. -/
def disassembleWith (placeholder : String) (buf : List Byte) (base : Addr) (start stop : Nat) : List DisassembledInstruction :=
  disassembleFrom placeholder buf base stop (stop - start) start

/-- `UNDEF_MNEMONIC` (R233): the open placeholder, which must not be one of the real mnemonics; a value
that is one is replaced by the spec's suggestion. DESIGN CHOICE: a value that spells a real mnemonic in lower or mixed
case counts as that mnemonic, as it does in a source line (R251, R258; log entry 10). -/
def undefMnemonic : String :=
  if (mnemonicOf (Config.undefMnemonicText.toList.map Char.toUpper)).isSome then "???" else Config.undefMnemonicText

/-- `Disassemble(buf, base = 0, start = 0, stop = length(buf))` (R236). -/
def disassemble (buf : List Byte) (base : Addr := 0) (start : Nat := 0) (stop : Option Nat := none) : List DisassembledInstruction :=
  disassembleWith undefMnemonic buf base start (stop.getD buf.length)

end Sys2Proof.Machine
end

