-- ==== Sys2Proof/Machine/RunControl.lean ====
section
/-! DEFINITION. Run control (`60_exceptions.md` R298 to R301): the batching scheduler as transitions between
which the host may act, and the two ends of a run that are functions of the launch state. -/

namespace Sys2Proof.Machine

/-- The reasons a run stops (R9, R298). `error` is listed by the interface and produced by no rule. -/
inductive StopReason where
  | userHalt | break_ | error
  deriving DecidableEq, Repr

/-- What the host's callbacks are told: a step and what it returned, the end of a batch, the stop of the
run (R9, R298, R305). -/
inductive Event where
  | step (r : StepResult)
  | batch
  | stop (r : StopReason)
  deriving DecidableEq, Repr

/-- The errors of host operations (R15, R291). -/
inductive HostError where
  /-- `Load` would pass the top of memory (R66, U13). -/
  | loadPastTop
  /-- `Reset` during a run (R311, U12). -/
  | resetMidRun
  /-- `Step` during a run (R298, U12). -/
  | stepMidRun
  /-- `Run` during a run (R298, U12). -/
  | runMidRun
  /-- A write of the cycle counter: the spec gives no such operation (R36, D19). -/
  | cycNotWritable
  deriving DecidableEq, Repr

/-- The start of `Run(breakStop)` (R298): refused while a run is in progress. -/
def runStart (breakStop : Bool) (s : State) : Except HostError State :=
  if s.running then .error .runMidRun
  else .ok { s with running := true, run := some ⟨breakStop, 0, .top⟩ }

/-- A run stops (R298). -/
def State.stopRun (s : State) : State := { s with running := false, run := none }

/-- A run goes on at another point of its loop. -/
def State.setRun (s : State) (r : RunProgress) : State := { s with run := some r }

/-- The top of a batch, the only place where the halt flag is examined (R298, R299). -/
def runTop (r : RunProgress) (s : State) : State × List Event :=
  if s.haltRequested then ({ s with haltRequested := false }.stopRun, [.stop .userHalt])
  else (s.setRun { r with used := 0, phase := .batch }, [])

/-- After a step inside a batch: its cycles are counted, and a break stops the run if the run asked for
it (R298). -/
def runAfterStep (r : RunProgress) (t : State) : State × List Event :=
  if t.result.brk && r.breakStop then (t.stopRun, [.step t.result, .stop .break_])
  else (t.setRun { r with used := r.used + t.result.cycles }, [.step t.result])

/-- Inside a batch of a given quota: one more step while the quota is not reached, the end of the batch
otherwise (R298). -/
def runInBatch (quota : Nat) (r : RunProgress) (s : State) : State × List Event :=
  if r.used < quota then
    match step s with
    | .next t => runAfterStep r t
    | .fault _ | .refused _ => (s.stopRun, [.stop .error])
  else (s.setRun { r with phase := .boundary }, [.batch])

/-- One transition of a run with a given batch quota (R298). At the boundary the host has had its turn and
the next batch begins. Without a run in progress nothing happens. -/
def runTickWith (quota : Nat) (s : State) : State × List Event :=
  match s.run with
  | none => (s, [])
  | some r =>
    match r.phase with
    | .top => runTop r s
    | .batch => runInBatch quota r s
    | .boundary => (s.setRun { r with phase := .top }, [])

/-- One transition of a run (R298), the quota being the open parameter `BATCH_QUOTA`. -/
def runTick (s : State) : State × List Event := runTickWith Config.batchQuota s

/-- `k` transitions of a run with no host action between them, and the events they notify, in order. -/
def runTicks : Nat → State → State × List Event
  | 0, s => (s, [])
  | k + 1, s => ((runTicks k (runTick s).1).1, (runTick s).2 ++ (runTicks k (runTick s).1).2)

/-- `Halt()` (R299): it takes effect at the top of the next batch. -/
def halt (s : State) : State := { s with haltRequested := true }

/-- The step-bounded end of a run (R301): the state after exactly `n` steps, or nothing if a step stopped. -/
def afterSteps : Nat → State → Option State
  | 0, s => some s
  | n + 1, s =>
    match step s with
    | .next t => afterSteps n t
    | .fault _ | .refused _ => none

/-- The break-bounded end of a run (R301): `t` is the state after the first step whose result has
`brk = true`, and `n` steps came before that one. -/
def breakAfter : Nat → State → Option State
  | 0, s =>
    match step s with
    | .next t => if t.result.brk then some t else none
    | .fault _ | .refused _ => none
  | n + 1, s =>
    match step s with
    | .next t => if t.result.brk then none else breakAfter n t
    | .fault _ | .refused _ => none

end Sys2Proof.Machine
end

