-- ==== Sys2Proof/Machine/HostOps.lean ====
section
/-! DEFINITION. The operations of the interface (`00_scope.md` R9): reset, load, step, run, halt, register and
memory access, assembler and disassembler. Every one acts between steps. -/

namespace Sys2Proof.Machine

/-! ### Reset and power-on (R310, R311) -/

/-- The state after power-on (R310): registers as after reset, and memory a launch parameter of which
nothing is assumed (U5, D14). -/
def State.powerOn (initial : Memory) : State := { State.reset with mem := initial }

/-- The registers, the counter and the run-control bits at their reset values (R40); memory and the draws of
free values are left. -/
def State.resetRegisters (s : State) : State := { State.reset with mem := s.mem, freeCtr := s.freeCtr }

/-- `Reset(zeroMemory)` (R311). -/
def hostReset (zeroMemory : Bool) (s : State) : Except HostError State :=
  if s.running then .error .resetMidRun
  else .ok (if zeroMemory then { s.resetRegisters with mem := [] } else s.resetRegisters)

/-! ### Memory access by the host (R66, R67) -/

/-- Bytes stored at consecutive addresses. -/
def Memory.writeBytes (m : Memory) : Nat → List Byte → Memory
  | _, [] => m
  | a, b :: bs => Memory.writeBytes (Memory.write m a b) (a + 1) bs

/-- `Load(addr, bytes)` (R66): refused, with nothing written, where it would pass the top of memory. -/
def hostLoad (addr : Addr) (bytes : List Byte) (s : State) : Except HostError State :=
  if addr.toNat + bytes.length > 65536 then .error .loadPastTop
  else .ok { s with mem := Memory.writeBytes s.mem addr.toNat bytes }

/-- `u8(v)` of an unbounded integer (R10). -/
def u8 (v : Int) : Byte := BitVec.ofInt 8 v

/-- `u16(v)` of an unbounded integer (R10). -/
def u16 (v : Int) : Addr := BitVec.ofInt 16 v

/-- `ReadByte(a)` (R67). -/
def hostReadByte (a : Int) (s : State) : Byte := s.read (u16 a)

/-- `WriteByte(a, v)` (R67). -/
def hostWriteByte (a v : Int) (s : State) : State := s.write (u16 a) (u8 v)

/-- `ReadWord(a)` (R67). -/
def hostReadWord (a : Int) (s : State) : Addr := s.readWord (u16 a)

/-- `WriteWord(a, v)` (R67). -/
def hostWriteWord (a v : Int) (s : State) : State := s.writeWord (u16 a) (u16 v)

/-! ### Register access by the host (R36) -/

/-- The registers the host can name (R36). -/
inductive HostReg where
  | A | X | Y | P | SP | PC | CYC
  deriving DecidableEq, Repr

/-- `ReadReg(r)` (R36). -/
def hostReadReg (r : HostReg) (s : State) : Nat :=
  match r with
  | .A => s.a.toNat
  | .X => s.x.toNat
  | .Y => s.y.toNat
  | .P => s.p.toNat
  | .SP => s.sp.toNat
  | .PC => s.pc.toNat
  | .CYC => s.cyc

/-- `WriteReg(r, v)` (R36): masked to the register's width; P takes all eight bits verbatim (U16). -/
def hostWriteReg (r : HostReg) (v : Int) (s : State) : Except HostError State :=
  match r with
  | .A => .ok (s.setReg .A (u8 v))
  | .X => .ok (s.setReg .X (u8 v))
  | .Y => .ok (s.setReg .Y (u8 v))
  | .P => .ok (s.setReg .P (u8 v))
  | .SP => .ok (s.setReg .SP (u8 v))
  | .PC => .ok (s.setPC (u16 v))
  | .CYC => .error .cycNotWritable

/-! ### The operations as data (R9) -/

/-- The operations of the interface (R9). -/
inductive HostOp where
  | reset (zeroMemory : Bool)
  | load (addr : Addr) (bytes : List Byte)
  | step
  | run (breakStop : Bool)
  | halt
  | readReg (r : HostReg)
  | writeReg (r : HostReg) (v : Int)
  | readByte (a : Int)
  | writeByte (a v : Int)
  | readWord (a : Int)
  | writeWord (a v : Int)
  | assemble (text : String) (base : Addr)
  | disassemble (buf : List Byte) (base : Addr) (start stop : Nat)
  deriving DecidableEq, Repr

/-- What an operation returns to the host (R9). -/
inductive HostReply where
  | none
  | value (n : Nat)
  | stepResult (r : StepResult)
  | assembled (r : Except AsmError (List Byte))
  | records (l : List DisassembledInstruction)

/-- An operation that returns nothing but a new state or an error. -/
def withoutReply (e : Except HostError State) : Except HostError (State × HostReply) := e.map (fun t => (t, .none))

/-- `Step()` called by the host: refused during a run (R298). The last case cannot arise, since no step
stops (R96). -/
def hostStep (s : State) : Except HostError (State × HostReply) :=
  if s.running then .error .stepMidRun
  else match step s with
    | .next t => .ok (t, .stepResult t.result)
    | .fault _ | .refused _ => .ok (s, .none)

/-- One operation of the interface (R9). `run` starts a run, which `runTick` carries on and which reports
its stop reason as an event; `assemble` and `disassemble` read and change no state (R230, R250). -/
def hostOp (op : HostOp) (s : State) : Except HostError (State × HostReply) :=
  match op with
  | .reset z => withoutReply (hostReset z s)
  | .load a bs => withoutReply (hostLoad a bs s)
  | .step => hostStep s
  | .run b => withoutReply (runStart b s)
  | .halt => .ok (halt s, .none)
  | .readReg r => .ok (s, .value (hostReadReg r s))
  | .writeReg r v => withoutReply (hostWriteReg r v s)
  | .readByte a => .ok (s, .value (hostReadByte a s).toNat)
  | .writeByte a v => .ok (hostWriteByte a v s, .none)
  | .readWord a => .ok (s, .value (hostReadWord a s).toNat)
  | .writeWord a v => .ok (hostWriteWord a v s, .none)
  | .assemble text base => .ok (s, .assembled (assemble text base))
  | .disassemble buf base start stop => .ok (s, .records (disassemble buf base start (some stop)))

end Sys2Proof.Machine
end

