-- ==== Sys2Proof/Safety.lean ====
section
/-! DEFINITION. The terms claims use: the invariant of a safe run, what each instruction may write (the
spec's tables R21 and R27 as functions), and what two states must share. -/

namespace Sys2Proof.Machine

/-! ### The invariant -/

/-- Bit 5 of P is 1 and bit 4 is 0, as after reset: no instruction writes them (R30). -/
def State.statusBitsAsReset (s : State) : Bool := s.flag .U && !s.flag .B

/-- `running` holds exactly while a run is in progress (R34, R298). -/
def State.runConsistent (s : State) : Bool := s.running == s.run.isSome

/-- The invariant: memory in canonical form, bits 5 and 4 of P as after reset, run control consistent. -/
def State.inv (s : State) : Bool := Memory.wf s.mem && s.statusBitsAsReset && s.runConsistent

/-! ### What each instruction may write -/

/-- The general registers and the stack pointer that an instruction writes (R21, R22). The status register
is described flag by flag in `flagsWritten`. -/
def regsWritten : Instr → List Reg
  | .lda _ | .txa | .tya | .adc _ | .sbc _ | .and _ | .ora _ | .eor _ => [.A]
  | .ldx _ | .tax | .tsx | .inx | .dex => [.X]
  | .ldy _ | .tay | .iny | .dey => [.Y]
  | .asl .acc | .lsr .acc | .rol .acc | .ror .acc => [.A]
  | .asl (.mem _) | .lsr (.mem _) | .rol (.mem _) | .ror (.mem _) => []
  | .txs | .pha | .php | .plp | .jsr _ | .rts | .brk | .rti => [.SP]
  | .pla => [.A, .SP]
  | .sta _ | .stx _ | .sty _ | .inc _ | .dec _ | .cmp _ | .cpx _ | .cpy _ | .bit _ => []
  | .jmp _ | .bcc _ | .bcs _ | .beq _ | .bne _ | .bmi _ | .bpl _ | .bvc _ | .bvs _ => []
  | .clc | .sec | .cli | .sei | .cld | .sed | .clv | .nop | .und _ => []

/-- The flags that an instruction writes (R27). -/
def flagsWritten : Instr → List Flag
  | .lda _ | .ldx _ | .ldy _ | .tax | .tay | .txa | .tya | .tsx | .pla => [.N, .Z]
  | .and _ | .ora _ | .eor _ => [.N, .Z]
  | .inc _ | .inx | .iny | .dec _ | .dex | .dey => [.N, .Z]
  | .adc _ | .sbc _ => [.N, .V, .Z, .C]
  | .cmp _ | .cpx _ | .cpy _ => [.N, .Z, .C]
  | .asl _ | .lsr _ | .rol _ | .ror _ => [.N, .Z, .C]
  | .bit _ => [.N, .V, .Z]
  | .clc | .sec => [.C]
  | .cld | .sed => [.D]
  | .cli | .sei => [.I]
  | .clv => [.V]
  | .plp | .rti => [.N, .V, .D, .I, .Z, .C]
  | .brk => [.I]
  | .sta _ | .stx _ | .sty _ | .txs | .pha | .php | .jmp _ | .jsr _ | .rts | .nop | .und _ => []
  | .bcc _ | .bcs _ | .beq _ | .bne _ | .bmi _ | .bpl _ | .bvc _ | .bvs _ => []

/-- The addresses an instruction stores a byte to: the effective address of the stores, of the increments
and of the shifts on memory, and the stack locations of the pushes (R60, R124, R147, R181, R200, R220). -/
def storedAt (i : Instr) (s : State) : List Addr :=
  match i with
  | .sta m | .stx m | .sty m | .inc m | .dec m => [m.ea s]
  | .asl (.mem m) | .lsr (.mem m) | .rol (.mem m) | .ror (.mem m) => [m.ea s]
  | .asl .acc | .lsr .acc | .rol .acc | .ror .acc => []
  | .pha | .php => [stackAddr s.sp]
  | .jsr _ => [stackAddr s.sp, stackAddr (s.sp - 1)]
  | .brk => [stackAddr s.sp, stackAddr (s.sp - 1), stackAddr (s.sp - 2)]
  | .lda _ | .ldx _ | .ldy _ | .tax | .tay | .txa | .tya | .tsx | .txs => []
  | .adc _ | .sbc _ | .cmp _ | .cpx _ | .cpy _ | .inx | .iny | .dex | .dey => []
  | .and _ | .ora _ | .eor _ | .bit _ | .jmp _ | .rts => []
  | .bcc _ | .bcs _ | .beq _ | .bne _ | .bmi _ | .bpl _ | .bvc _ | .bvs _ => []
  | .pla | .plp | .clc | .sec | .cli | .sei | .cld | .sed | .clv | .rti | .nop | .und _ => []

/-- The operand of an instruction that only reads it and pays for a page crossing (R99). -/
def paysPageCross : Instr → Option ReadOperand
  | .lda o | .ldx o | .ldy o | .adc o | .sbc o | .and o | .ora o | .eor o | .cmp o => some o
  | _ => none

/-- The offset of a branch and whether it is taken in a state (R183 to R191). -/
def branchOf (i : Instr) (s : State) : Option (Byte × Bool) :=
  match i with
  | .bcc off => some (off, !s.flag .C)
  | .bcs off => some (off, s.flag .C)
  | .beq off => some (off, s.flag .Z)
  | .bne off => some (off, !s.flag .Z)
  | .bmi off => some (off, s.flag .N)
  | .bpl off => some (off, !s.flag .N)
  | .bvc off => some (off, !s.flag .V)
  | .bvs off => some (off, s.flag .V)
  | _ => none

/-- `extra` at the end of a step (R97): a page crossing of a reading instruction in ABSX, ABSY or INDY (R99),
or a taken branch, and one more if its target lies in another page than the byte after it (R183). -/
def extraCycles (i : Instr) (s : State) : Nat :=
  match paysPageCross i, branchOf i s with
  | some (.mem m), _ =>
    if m.mode ∈ [Mode.ABSX, Mode.ABSY, Mode.INDY] ∧ (m.base s).toNat / 256 ≠ (m.ea s).toNat / 256 then 1 else 0
  | some (.imm _), _ => 0
  | none, some (off, true) =>
    1 + (if (s.pc + 2).toNat / 256 ≠ (branchTarget (s.pc + 2) off).toNat / 256 then 1 else 0)
  | none, _ => 0

/-- The Encoding line of a rule: the mnemonic's opcodes are exactly the listed ones, each with its mode and
base cycles. -/
def encodings (mn : Mnemonic) (rows : List (Byte × Mode × Nat)) : Prop :=
  (∀ r ∈ rows, ∀ b1 b2 : Byte, (decode3 r.1 b1 b2).mnemonic = mn ∧ (decode3 r.1 b1 b2).mode = r.2.1 ∧
    baseCycles (decode3 r.1 b1 b2) = r.2.2) ∧
  ∀ op b1 b2 : Byte, (decode3 op b1 b2).mnemonic = mn → op ∈ rows.map (·.1)

/-- The addition that D0 describes, "nibble-wise BCD correction with carry propagated between nibbles" (R141). -/
def nibbleAdd (a m : Byte) (c : Bool) : Byte × Bool :=
  let l := loNibble a + loNibble m + c.toNat
  let l' := if l > 9 then l + 6 else l
  let h := hiNibble a + hiNibble m + (if l' > 0x0F then 1 else 0)
  let h' := if h > 9 then h + 6 else h
  (BitVec.ofNat 8 (16 * (h' % 16) + l' % 16), decide (h' > 0x0F))

/-- The nibble-wise subtraction of R143. -/
def nibbleSub (a m : Byte) (c : Bool) : Byte × Bool :=
  let l : Int := (loNibble a : Int) - loNibble m - (1 - c.toNat)
  let borrow : Int := if l < 0 then 1 else 0
  let l' := if l < 0 then l + 10 else l
  let h : Int := (hiNibble a : Int) - hiNibble m - borrow
  let h' := if h < 0 then h + 10 else h
  (BitVec.ofInt 8 (16 * h' + l'), decide (¬ h < 0))

/-! ### Assembling what was disassembled -/

/-- A memory operand as the assembler encodes its printed form: an absolute address below 0x0100 takes the
zero-page form of the same index (R240, R262). -/
def shortForm (m : MemOperand) : MemOperand :=
  match m with
  | .abs a => if hi a = 0 then .zp (lo a) else m
  | .absx b => if hi b = 0 then .zpx (lo b) else m
  | .absy b => if hi b = 0 then .zpy (lo b) else m
  | .zp _ | .zpx _ | .zpy _ | .indx _ | .indy _ => m

/-- A read operand as the assembler encodes its printed form. -/
def shortRead : ReadOperand → ReadOperand
  | .imm v => .imm v
  | .mem m => .mem (shortForm m)

/-- A shift's operand as the assembler encodes its printed form. -/
def shortShift : ShiftOperand → ShiftOperand
  | .acc => .acc
  | .mem m => .mem (shortForm m)

/-- The instruction with its operand in the short form, whether or not it exists. -/
def shortInstr (i : Instr) : Instr :=
  match i with
  | .lda o => .lda (shortRead o)
  | .ldx o => .ldx (shortRead o)
  | .ldy o => .ldy (shortRead o)
  | .adc o => .adc (shortRead o)
  | .sbc o => .sbc (shortRead o)
  | .cmp o => .cmp (shortRead o)
  | .cpx o => .cpx (shortRead o)
  | .cpy o => .cpy (shortRead o)
  | .and o => .and (shortRead o)
  | .ora o => .ora (shortRead o)
  | .eor o => .eor (shortRead o)
  | .sta m => .sta (shortForm m)
  | .stx m => .stx (shortForm m)
  | .sty m => .sty (shortForm m)
  | .inc m => .inc (shortForm m)
  | .dec m => .dec (shortForm m)
  | .bit m => .bit (shortForm m)
  | .asl o => .asl (shortShift o)
  | .lsr o => .lsr (shortShift o)
  | .rol o => .rol (shortShift o)
  | .ror o => .ror (shortShift o)
  | i => i

/-- The instruction whose bytes come back when the printed form of an instruction is assembled (R240, R259):
the short form where the mnemonic has that slot, and the instruction itself otherwise. -/
def reassembled (i : Instr) : Instr := if (shortInstr i).wellFormed then shortInstr i else i

/-! ### What two states share -/

/-- Every register but the listed ones and P has the same value. -/
def sameRegsBut (rs : List Reg) (s t : State) : Prop := ∀ r, r ≠ .P → r ∉ rs → t.reg r = s.reg r

/-- Every flag but the listed ones has the same value. -/
def sameFlagsBut (fs : List Flag) (s t : State) : Prop := ∀ f, f ∉ fs → t.flag f = s.flag f

/-- Every byte of memory but those at the listed addresses reads the same. -/
def sameMemoryBut (as : List Addr) (s t : State) : Prop := ∀ a, a ∉ as → t.read a = s.read a

/-- The run-control state is the same: what the instruction set cannot see or write (R34). -/
def sameRunControl (s t : State) : Prop :=
  t.running = s.running ∧ t.haltRequested = s.haltRequested ∧ t.run = s.run

/-- What an instruction leaves unchanged: registers, flags, memory and run control but for the listed. -/
def frame (rs : List Reg) (fs : List Flag) (as : List Addr) (s t : State) : Prop :=
  sameRegsBut rs s t ∧ sameFlagsBut fs s t ∧ sameMemoryBut as s t ∧ sameRunControl s t

/-- The step consumed a number of cycles and was no BRK (R33, R96). -/
def costs (cycles : Nat) (s t : State) : Prop := t.cyc = s.cyc + cycles ∧ t.result = ⟨cycles, false⟩

/-- Z and N are those of a byte (R26). -/
def zeroNegativeOf (v : Byte) (t : State) : Prop := t.flag .Z = decide (v = 0) ∧ t.flag .N = decide (v.toNat ≥ 128)

/-- The program counter is past the instruction, its base cycles and some extra ones were consumed, and no
free value was drawn: how every instruction ends that neither jumps nor traps. -/
def straight (i : Instr) (extra : Nat) (s t : State) : Prop :=
  t.pc = s.pc + BitVec.ofNat 16 i.length ∧ costs (baseCycles i + extra) s t ∧ t.freeCtr = s.freeCtr

/-- An instruction answers a next state of which something holds. -/
def completes (i : Instr) (s : State) (post : State → Prop) : Prop := ∃ t, exec i s = .next t ∧ post t

/-- Where the result of a shift or rotate is found: in A, or at the operand's address (R85, R164). -/
def shiftedInto (o : ShiftOperand) (s t : State) : Byte :=
  match o with
  | .acc => t.a
  | .mem m => t.read (m.ea s)

/-- What a shift or rotate with result `r` and carry-out `c` leaves (`42_logic_shift.md` section 3). -/
def shifts (i : Instr) (o : ShiftOperand) (r : Nat) (c : Bool) (s : State) : Prop :=
  completes i s fun t =>
    (shiftedInto o s t).toNat = r ∧ t.flag .C = c ∧ zeroNegativeOf (shiftedInto o s t) t ∧ straight i 0 s t ∧
    frame (regsWritten i) [.N, .Z, .C] (storedAt i s) s t

/-- What a conditional branch with a predicate leaves (R98, R183). -/
def branches (i : Instr) (off : Byte) (cond : Bool) (s : State) : Prop :=
  completes i s fun t =>
    let target : Addr := BitVec.ofInt 16 (s.pc.toNat + 2 + off.toInt)
    t.pc = (if cond then target else s.pc + 2) ∧
    costs (if cond then (if hi (s.pc + 2) = hi target then 3 else 4) else 2) s t ∧
    frame [] [] [] s t ∧ t.freeCtr = s.freeCtr

end Sys2Proof.Machine
end

