-- ==== Sys2Proof/Certificates/Slice0/Obligations.lean ====
section
/-! DEFINITION. The statements for the provers. Each docstring says what the statement claims; the rules it
rests on stand in OBLIGATIONS.json. -/

open Sys2Proof Sys2Proof.Machine

/-- For every well-formed instruction, with every operand at every value, and whatever bytes follow: it has an
encoding, of exactly its length, and decoding those bytes gives the instruction and the bytes that follow. -/
def Obligations.DecodeOfEncodeIsTheInstruction : Prop :=
  ∀ (i : Instr) (rest : List Byte), i.wellFormed = true →
    ∃ bs, encode i = some bs ∧ bs.length = i.length ∧ decodeBytes (bs ++ rest) = .ok (i, rest)

/-- For all three bytes: the instruction they decode to is well formed, and its encoding is the first bytes of the
three, as many as its length; so no opcode byte and no operand bit is dropped or shared. -/
def Obligations.EncodeOfDecodeIsTheBytes : Prop :=
  ∀ op b1 b2 : Byte, (decode3 op b1 b2).wellFormed = true ∧
    encode (decode3 op b1 b2) = some ([op, b1, b2].take (decode3 op b1 b2).length)

/-- For every instruction term: it has an encoding if and only if it is well formed, that is if its mode is a
supported slot of its mnemonic's opcode group and, for an undefined opcode, if its byte is one of the 105. -/
def Obligations.EncodableExactlyWhenWellFormed : Prop :=
  ∀ i : Instr, (∃ bs, encode i = some bs) ↔ i.wellFormed = true

/-- Bytes taken from the spec's encoding tables and examples, one or more of every family, decode to the
instructions they stand for. -/
def Obligations.WordsWrittenOutDecode : Prop :=
  decode3 0xA9 0x01 0x00 = .lda (.imm 0x01) ∧ decode3 0x8D 0x00 0x02 = .sta (.abs 0x0200) ∧
  decode3 0xB1 0x10 0x00 = .lda (.mem (.indy 0x10)) ∧ decode3 0x96 0xFF 0x00 = .stx (.zpy 0xFF) ∧
  decode3 0xBA 0x00 0x00 = .tsx ∧ decode3 0x69 0x50 0x00 = .adc (.imm 0x50) ∧
  decode3 0xDE 0x34 0x12 = .dec (.absx 0x1234) ∧ decode3 0x2C 0x00 0x03 = .bit (.abs 0x0300) ∧
  decode3 0x6A 0x00 0x00 = .ror .acc ∧ decode3 0x4C 0x08 0x06 = .jmp (.abs 0x0608) ∧
  decode3 0x6C 0xFF 0x02 = .jmp (.ind 0x02FF) ∧ decode3 0xD0 0xFD 0x00 = .bne 0xFD ∧
  decode3 0x20 0x09 0x06 = .jsr 0x0609 ∧ decode3 0x28 0x00 0x00 = .plp ∧ decode3 0xF8 0x00 0x00 = .sed ∧
  decode3 0x00 0xFF 0xFF = .brk ∧ decode3 0x40 0x00 0x00 = .rti ∧ decode3 0x02 0x00 0x00 = .und 0x02

/-- Whenever the bytes at pc, pc+1 and pc+2 (addresses modulo 65536) decode to an instruction, step at that state is
exec of that instruction at that state, with nothing added around it: the program counter, the cycle counter and
the step result are moved by exec itself. -/
def Obligations.StepRunsTheDecodedInstruction : Prop :=
  ∀ (s : State) (i : Instr) (rest : List Byte),
    decodeBytes [s.read s.pc, s.read (s.pc + 1), s.read (s.pc + 2)] = .ok (i, rest) → step s = exec i s

/-- Whenever the encoding of an instruction stands in memory from pc on (addresses modulo 65536), step at that state
is exec of that instruction; bytes after the instruction play no part. -/
def Obligations.StepRunsTheEncodedInstruction : Prop :=
  ∀ (s : State) (i : Instr) (bs : List Byte), encode i = some bs →
    (∀ k : Nat, k < bs.length → s.read (s.pc + BitVec.ofNat 16 k) = bs.getD k 0) → step s = exec i s

/-- For every opcode byte and all operand bytes, the decoded instruction has the table's mnemonic and mode, its base
cycles are the table's cycle column, and a defined entry has the + mark exactly when its instruction pays for a
page crossing and its mode is ABSX, ABSY or INDY. -/
def Obligations.DecodedColumnsAreTheTables : Prop :=
  ∀ op b1 b2 : Byte,
    (decode3 op b1 b2).mnemonic = tableMnemonic op ∧ (decode3 op b1 b2).mode = tableMode op ∧
    baseCycles (decode3 op b1 b2) = tableCycles op ∧
    ∀ e, tableEntry op = some e →
      (e.plus = true ↔ (paysPageCross (decode3 op b1 b2)).isSome = true ∧ e.mode ∈ [Mode.ABSX, Mode.ABSY, Mode.INDY])

/-- An opcode byte has a defined entry with a mnemonic and a mode in some slot if and only if it stands in that slot
of the mnemonic's opcode group; the undefined bytes are the listed ones, 105 without repetition, and of the 256
bytes 151 are defined. -/
def Obligations.OpcodeGroupsInvertTheTable : Prop :=
  (∀ op : Byte, ∀ e, tableEntry op = some e → opcodeFor e.mn e.mode.slot = some op) ∧
  (∀ mn : Mnemonic, ∀ r ∈ opcodeGroup mn, tableMnemonic r.2 = mn ∧ (tableMode r.2).slot = r.1) ∧
  (∀ op : Byte, tableEntry op = none ↔ op ∈ undefinedOpcodes) ∧
  undefinedOpcodes.length = 105 ∧ undefinedOpcodes.Nodup ∧
  ((List.range 256).filter fun n => (tableEntry (BitVec.ofNat 8 n)).isSome).length = 151

/-- For every state, step answers a next state, which is the execution of the instruction decoded at pc; the
result's cycles are the base value of the opcode's table entry plus the extra cycles, they are added to CYC, and
brk is true exactly when the opcode byte was 0x00. -/
def Obligations.StepFollowsTheLoopBody : Prop :=
  ∀ s : State, ∃ t, step s = .next t ∧
    exec (decode3 (s.read s.pc) (s.read (s.pc + 1)) (s.read (s.pc + 2))) s = .next t ∧
    t.result.cycles = tableCycles (s.read s.pc) + extraCycles s.fetchInstr s ∧
    t.cyc = s.cyc + t.result.cycles ∧ (t.result.brk = true ↔ s.read s.pc = 0x00)

/-- For every well-formed instruction and every state, exec answers a next state whose cycle count is the base value
plus: 1 if the instruction only reads its operand, in mode ABSX, ABSY or INDY, and the index changed the page; 1
for a taken branch and 1 more if its target lies in another page than the byte after it; nothing else. -/
def Obligations.CyclesAreBasePlusExtra : Prop :=
  ∀ (i : Instr) (s : State), i.wellFormed = true → completes i s fun t =>
    t.cyc = s.cyc + (baseCycles i + extraCycles i s) ∧ t.result = ⟨baseCycles i + extraCycles i s, isBreak i⟩

/-- A word read is 256 times the byte at the next address (modulo 65536) plus the byte at the address; a byte or
word write changes exactly the addressed cells, the low byte at the address and the high byte at the next one. -/
def Obligations.WordAccessIsLittleEndian : Prop :=
  (∀ (s : State) (a : Addr), (s.readWord a).toNat = 256 * (s.read (a + 1)).toNat + (s.read a).toNat) ∧
  (∀ (s : State) (a : Addr) (v : Byte), (s.write a v).read a = v ∧ sameMemoryBut [a] s (s.write a v) ∧
    sameRegsBut [] s (s.write a v) ∧ (s.write a v).p = s.p ∧ (s.write a v).pc = s.pc) ∧
  (∀ (s : State) (a v : Addr), (s.writeWord a v).read a = lo v ∧ (s.writeWord a v).read (a + 1) = hi v ∧
    (s.writeWord a v).readWord a = v ∧ sameMemoryBut [a, a + 1] s (s.writeWord a v) ∧
    sameRegsBut [] s (s.writeWord a v) ∧ (s.writeWord a v).p = s.p ∧ (s.writeWord a v).pc = s.pc)

/-- The list form that stands for the 65536-cell array (the model's own choice, log entry 2) is canonical: if two
memories are in canonical form and every one of the 65536 addresses reads the same in both, they are equal. -/
def Obligations.CanonicalMemoriesReadingAlikeAreEqual : Prop :=
  ∀ m m' : Memory, Memory.wf m = true → Memory.wf m' = true →
    (∀ a : Addr, Memory.read m a.toNat = Memory.read m' a.toNat) → m = m'

/-- A push stores the byte at 0x0100 + SP, changes no other byte and leaves SP − 1 modulo 256; a pull leaves SP + 1
modulo 256 and returns the byte at 0x0100 plus that; both stay in page 1, also when SP wraps, and a pull after a
push gives the byte and SP back. -/
def Obligations.PushAndPullKeepToPageOne : Prop :=
  (∀ (s : State) (v : Byte), ((stackAddr s.sp).toNat = 256 + s.sp.toNat) ∧
    (s.push v).read (stackAddr s.sp) = v ∧ sameMemoryBut [stackAddr s.sp] s (s.push v) ∧
    (s.push v).sp.toNat = (s.sp.toNat + 255) % 256 ∧ sameRegsBut [.SP] s (s.push v) ∧ (s.push v).p = s.p) ∧
  (∀ s : State, s.pulled = s.read (BitVec.ofNat 16 (256 + (s.sp.toNat + 1) % 256)) ∧
    s.popped.sp.toNat = (s.sp.toNat + 1) % 256 ∧ sameRegsBut [.SP] s s.popped ∧ sameMemoryBut [] s s.popped ∧
    s.popped.p = s.p) ∧
  (∀ (s : State) (v : Byte), (s.push v).pulled = v ∧ (s.push v).popped.sp = s.sp)

/-- Reset while running raises ConfigError; otherwise A, X, Y, PC and CYC are 0, SP is 0xFF, P is 0x20, neither run-
control bit is set, and every memory cell reads 0x00 if zeroing was asked for and is unchanged if not. The
model's state after reset has those values, with every memory cell 0x00 (log entry 1 says that the model starts
there). -/
def Obligations.ResetGivesTheDocumentedState : Prop :=
  (∀ (z : Bool) (s : State), s.running = true → hostReset z s = .error .resetMidRun) ∧
  (∀ (z : Bool) (s : State), s.running = false → ∃ t, hostReset z s = .ok t ∧
    t.a = 0x00 ∧ t.x = 0x00 ∧ t.y = 0x00 ∧ t.sp = 0xFF ∧ t.p = 0x20 ∧ t.pc = 0x0000 ∧ t.cyc = 0 ∧
    t.running = false ∧ t.haltRequested = false ∧
    ∀ a, t.read a = if z then 0x00 else s.read a) ∧
  (State.reset.a = 0x00 ∧ State.reset.x = 0x00 ∧ State.reset.y = 0x00 ∧ State.reset.sp = 0xFF ∧
    State.reset.p = 0x20 ∧ State.reset.pc = 0x0000 ∧ State.reset.cyc = 0 ∧ State.reset.running = false ∧
    State.reset.haltRequested = false ∧ ∀ a, State.reset.read a = 0x00)

/-- After reset memory is in canonical form, bit 5 of P is 1 and bit 4 is 0, and no run is in progress. Reset(true)
in that state gives the same state, the model's own fields included: the list of memory cells, the latest step
result and the counter of free values are the model's choice (log entries 2, 3, 4 and 16). -/
def Obligations.ResetStateMeetsTheInvariant : Prop :=
  State.reset.inv = true ∧ hostReset true State.reset = .ok State.reset

/-- If the address plus the number of bytes is above 65536, Load raises ConfigError; otherwise byte k is stored at
the address plus k, no other cell changes, and no register changes, the program counter included. -/
def Obligations.LoadStoresTheBytesOrRefuses : Prop :=
  (∀ (s : State) (addr : Addr) (bytes : List Byte), addr.toNat + bytes.length > 65536 →
    hostLoad addr bytes s = .error .loadPastTop) ∧
  (∀ (s : State) (addr : Addr) (bytes : List Byte), addr.toNat + bytes.length ≤ 65536 →
    ∃ t, hostLoad addr bytes s = .ok t ∧
      (∀ k : Nat, k < bytes.length → t.read (BitVec.ofNat 16 (addr.toNat + k)) = bytes.getD k 0) ∧
      (∀ a : Addr, (a.toNat < addr.toNat ∨ addr.toNat + bytes.length ≤ a.toNat) → t.read a = s.read a) ∧
      sameRegsBut [] s t ∧ t.p = s.p ∧ t.pc = s.pc ∧ t.cyc = s.cyc ∧ sameRunControl s t)

/-- A register written by the host reads back modulo 256 (modulo 65536 for PC), P with all eight bits as given, and
the write changes nothing else; the cycle counter has no write, and that an attempt is refused by name is the
model's choice (log entry 15), the spec giving no such operation; byte and word access take addresses modulo
65536 and values modulo 256 and 65536, words little endian, and a byte or word write changes no register. -/
def Obligations.HostAccessIsMasked : Prop :=
  (∀ (s : State) (r : HostReg) (v : Int), r ≠ .CYC → ∃ t, hostWriteReg r v s = .ok t ∧
    (hostReadReg r t : Int) = v % (if r = .PC then 65536 else 256) ∧
    (∀ q, q ≠ r → hostReadReg q t = hostReadReg q s) ∧ sameMemoryBut [] s t ∧ sameRunControl s t) ∧
  (∀ (s : State) (v : Int), hostWriteReg .CYC v s = .error .cycNotWritable) ∧
  (∀ (s : State) (a v : Int), ((hostReadByte a (hostWriteByte a v s)).toNat : Int) = v % 256 ∧
    ((hostReadWord a (hostWriteWord a v s)).toNat : Int) = v % 65536 ∧
    hostReadByte a s = hostReadByte (a % 65536) s ∧
    (hostReadWord a s).toNat = 256 * (hostReadByte (a + 1) s).toNat + (hostReadByte a s).toNat ∧
    (∀ q, hostReadReg q (hostWriteByte a v s) = hostReadReg q s ∧ hostReadReg q (hostWriteWord a v s) = hostReadReg q s) ∧
    sameRunControl s (hostWriteByte a v s) ∧ sameRunControl s (hostWriteWord a v s) ∧
    sameMemoryBut [u16 a] s (hostWriteByte a v s) ∧ sameMemoryBut [u16 a, u16 (a + 1)] s (hostWriteWord a v s))

/-- For every initial memory, the power-on state has the register values of reset, CYC 0 and no run, and its memory
is the one given. -/
def Obligations.PowerOnIsResetButForMemory : Prop :=
  ∀ m : Memory, (State.powerOn m).mem = m ∧ (State.powerOn m).a = 0x00 ∧ (State.powerOn m).x = 0x00 ∧
    (State.powerOn m).y = 0x00 ∧ (State.powerOn m).sp = 0xFF ∧ (State.powerOn m).p = 0x20 ∧
    (State.powerOn m).pc = 0x0000 ∧ (State.powerOn m).cyc = 0 ∧ (State.powerOn m).running = false ∧
    (State.powerOn m).haltRequested = false

/-- ZP, ZPX and ZPY stay in the zero page, with the sum taken modulo 256; ABS is the operand; ABSX and ABSY add the
index modulo 65536; INDX reads its pointer at base plus X modulo 256, INDY at its base, both with the high
byte's address wrapping in the zero page, and INDY adds Y to the pointer; a crossing is a changed high byte in
ABSX, ABSY and INDY and never occurs in the other modes; a read operand is the immediate byte or the byte at the
effective address, with one extra cycle on a crossing. -/
def Obligations.EffectiveAddressesFollowTheirModes : Prop :=
  (∀ (s : State) (b : Byte), ((MemOperand.zp b).ea s).toNat = b.toNat ∧
    ((MemOperand.zpx b).ea s).toNat = (b.toNat + s.x.toNat) % 256 ∧
    ((MemOperand.zpy b).ea s).toNat = (b.toNat + s.y.toNat) % 256 ∧
    (MemOperand.zp b).crossed s = false ∧ (MemOperand.zpx b).crossed s = false ∧ (MemOperand.zpy b).crossed s = false) ∧
  (∀ (s : State) (a : Addr), (MemOperand.abs a).ea s = a ∧ (MemOperand.abs a).crossed s = false ∧
    ((MemOperand.absx a).ea s).toNat = (a.toNat + s.x.toNat) % 65536 ∧
    ((MemOperand.absy a).ea s).toNat = (a.toNat + s.y.toNat) % 65536 ∧
    ((MemOperand.absx a).crossed s = true ↔ hi a ≠ hi ((MemOperand.absx a).ea s)) ∧
    ((MemOperand.absy a).crossed s = true ↔ hi a ≠ hi ((MemOperand.absy a).ea s))) ∧
  (∀ (s : State) (b : Byte),
    let px := (b.toNat + s.x.toNat) % 256
    let pointer : Nat → Nat := fun z =>
      256 * (s.read (BitVec.ofNat 16 ((z + 1) % 256))).toNat + (s.read (BitVec.ofNat 16 z)).toNat
    ((MemOperand.indx b).ea s).toNat = pointer px ∧ (MemOperand.indx b).crossed s = false ∧
    ((MemOperand.indy b).ea s).toNat = (pointer b.toNat + s.y.toNat) % 65536 ∧
    ((MemOperand.indy b).crossed s = true ↔ pointer b.toNat / 256 ≠ ((MemOperand.indy b).ea s).toNat / 256)) ∧
  (∀ (s : State) (v : Byte) (m : MemOperand), (ReadOperand.imm v).value s = v ∧ (ReadOperand.imm v).extra s = 0 ∧
    (ReadOperand.mem m).value s = s.read (m.ea s) ∧ (ReadOperand.mem m).extra s = if m.crossed s then 1 else 0)

/-- Each load, in every operand form and state, completes: the register takes the operand, Z and N follow it, the
program counter passes the instruction, the base and page-cross cycles are consumed, and no other register, flag
or byte of memory changes. The encodings are those of the rules. -/
def Obligations.LoadsFollowTheirRules : Prop :=
  encodings .LDA [(0xA9, .IMM, 2), (0xA5, .ZP, 3), (0xB5, .ZPX, 4), (0xAD, .ABS, 4), (0xBD, .ABSX, 4), (0xB9, .ABSY, 4), (0xA1, .INDX, 6), (0xB1, .INDY, 5)] ∧
  encodings .LDX [(0xA2, .IMM, 2), (0xA6, .ZP, 3), (0xB6, .ZPY, 4), (0xAE, .ABS, 4), (0xBE, .ABSY, 4)] ∧
  encodings .LDY [(0xA0, .IMM, 2), (0xA4, .ZP, 3), (0xB4, .ZPX, 4), (0xAC, .ABS, 4), (0xBC, .ABSX, 4)] ∧
  (∀ (o : ReadOperand) (s : State), completes (.lda o) s fun t => t.a = o.value s ∧ zeroNegativeOf (o.value s) t ∧
    straight (.lda o) (o.extra s) s t ∧ frame [.A] [.Z, .N] [] s t) ∧
  (∀ (o : ReadOperand) (s : State), completes (.ldx o) s fun t => t.x = o.value s ∧ zeroNegativeOf (o.value s) t ∧
    straight (.ldx o) (o.extra s) s t ∧ frame [.X] [.Z, .N] [] s t) ∧
  (∀ (o : ReadOperand) (s : State), completes (.ldy o) s fun t => t.y = o.value s ∧ zeroNegativeOf (o.value s) t ∧
    straight (.ldy o) (o.extra s) s t ∧ frame [.Y] [.Z, .N] [] s t)

/-- Each store, in every memory mode and state, completes: the byte at the effective address becomes the register's
value, every other byte reads as before, no register and no flag changes, and a page crossing costs nothing. The
encodings are those of the rules. -/
def Obligations.StoresFollowTheirRules : Prop :=
  encodings .STA [(0x85, .ZP, 3), (0x95, .ZPX, 4), (0x8D, .ABS, 4), (0x9D, .ABSX, 5), (0x99, .ABSY, 5), (0x81, .INDX, 6), (0x91, .INDY, 6)] ∧
  encodings .STX [(0x86, .ZP, 3), (0x96, .ZPY, 4), (0x8E, .ABS, 4)] ∧
  encodings .STY [(0x84, .ZP, 3), (0x94, .ZPX, 4), (0x8C, .ABS, 4)] ∧
  (∀ (m : MemOperand) (s : State), completes (.sta m) s fun t => t.read (m.ea s) = s.a ∧
    straight (.sta m) 0 s t ∧ frame [] [] [m.ea s] s t) ∧
  (∀ (m : MemOperand) (s : State), completes (.stx m) s fun t => t.read (m.ea s) = s.x ∧
    straight (.stx m) 0 s t ∧ frame [] [] [m.ea s] s t) ∧
  (∀ (m : MemOperand) (s : State), completes (.sty m) s fun t => t.read (m.ea s) = s.y ∧
    straight (.sty m) 0 s t ∧ frame [] [] [m.ea s] s t)

/-- Each transfer completes in every state: the destination takes the source's value, Z and N follow it (TXS leaves
every flag), the program counter passes the one byte, 2 cycles are consumed, and nothing else changes. The
encodings are those of the rules. -/
def Obligations.TransfersFollowTheirRules : Prop :=
  encodings .TAX [(0xAA, .IMP, 2)] ∧
  encodings .TAY [(0xA8, .IMP, 2)] ∧
  encodings .TXA [(0x8A, .IMP, 2)] ∧
  encodings .TYA [(0x98, .IMP, 2)] ∧
  encodings .TSX [(0xBA, .IMP, 2)] ∧
  encodings .TXS [(0x9A, .IMP, 2)] ∧
  (∀ s : State, completes .tax s fun t => t.x = s.a ∧ zeroNegativeOf s.a t ∧
    straight .tax 0 s t ∧ frame [.X] [.Z, .N] [] s t) ∧
  (∀ s : State, completes .tay s fun t => t.y = s.a ∧ zeroNegativeOf s.a t ∧
    straight .tay 0 s t ∧ frame [.Y] [.Z, .N] [] s t) ∧
  (∀ s : State, completes .txa s fun t => t.a = s.x ∧ zeroNegativeOf s.x t ∧
    straight .txa 0 s t ∧ frame [.A] [.Z, .N] [] s t) ∧
  (∀ s : State, completes .tya s fun t => t.a = s.y ∧ zeroNegativeOf s.y t ∧
    straight .tya 0 s t ∧ frame [.A] [.Z, .N] [] s t) ∧
  (∀ s : State, completes .tsx s fun t => t.x = s.sp ∧ zeroNegativeOf s.sp t ∧
    straight .tsx 0 s t ∧ frame [.X] [.Z, .N] [] s t) ∧
  (∀ s : State, completes .txs s fun t => t.sp = s.x ∧ straight .txs 0 s t ∧ frame [.SP] [] [] s t)

/-- With D clear, ADC in every operand form and state completes: A takes A + operand + carry modulo 256, C is set
exactly when the sum is 256 or more, V exactly when the signed sum lies outside −128..127, Z and N follow A, and
no other register, flag or byte changes. The encodings are those of the rule. -/
def Obligations.BinaryAdditionSetsCarryAndOverflow : Prop :=
  encodings .ADC [(0x69, .IMM, 2), (0x65, .ZP, 3), (0x75, .ZPX, 4), (0x6D, .ABS, 4), (0x7D, .ABSX, 4), (0x79, .ABSY, 4), (0x61, .INDX, 6), (0x71, .INDY, 5)] ∧
  (∀ (o : ReadOperand) (s : State), s.flag .D = false → completes (.adc o) s fun t =>
    let m := o.value s
    let c := (s.flag .C).toNat
    t.a.toNat = (s.a.toNat + m.toNat + c) % 256 ∧
    t.flag .C = decide (s.a.toNat + m.toNat + c ≥ 256) ∧
    t.flag .V = decide (¬ (-128 ≤ s.a.toInt + m.toInt + c ∧ s.a.toInt + m.toInt + c ≤ 127)) ∧
    zeroNegativeOf t.a t ∧ straight (.adc o) (o.extra s) s t ∧ frame [.A] [.N, .V, .Z, .C] [] s t)

/-- With D set and both operands packed BCD, ADC completes: A is the packed-BCD byte of the decimal sum modulo 100,
C is set exactly when the sum is 100 or more, Z and N follow A, V is a free value, and the nibble-wise mechanism
gives the same byte and carry. With an operand that is not packed BCD, A, C, Z, N and V are free values. The
program counter, the cycles and everything else are as in binary mode. The counter that a free value is drawn
at, the places of the draws and how far the counter moves are the model's choice (log entry 4): the spec asks
for any value. The statement holds for every value of that counter. -/
def Obligations.DecimalAdditionIsCorrectOnBcd : Prop :=
  (∀ (o : ReadOperand) (s : State), s.flag .D = true → validBcd s.a = true → validBcd (o.value s) = true →
    completes (.adc o) s fun t =>
    let n := dec s.a + dec (o.value s) + (s.flag .C).toNat
    validBcd t.a = true ∧ dec t.a = n % 100 ∧ t.flag .C = decide (n ≥ 100) ∧
    nibbleAdd s.a (o.value s) (s.flag .C) = (t.a, t.flag .C) ∧
    zeroNegativeOf t.a t ∧ t.flag .V = Config.freeBit s.freeCtr ∧ t.freeCtr = s.freeCtr + 1 ∧
    t.pc = s.pc + BitVec.ofNat 16 (Instr.adc o).length ∧ costs (baseCycles (.adc o) + o.extra s) s t ∧
    frame [.A] [.N, .V, .Z, .C] [] s t) ∧
  (∀ (o : ReadOperand) (s : State), s.flag .D = true → (validBcd s.a && validBcd (o.value s)) = false →
    completes (.adc o) s fun t =>
    t.a = Config.freeByte s.freeCtr ∧ t.flag .C = Config.freeBit s.freeCtr ∧ t.flag .Z = Config.freeBit (s.freeCtr + 1) ∧
    t.flag .N = Config.freeBit (s.freeCtr + 2) ∧ t.flag .V = Config.freeBit (s.freeCtr + 3) ∧
    t.freeCtr = s.freeCtr + 4 ∧ t.pc = s.pc + BitVec.ofNat 16 (Instr.adc o).length ∧
    costs (baseCycles (.adc o) + o.extra s) s t ∧ frame [.A] [.N, .V, .Z, .C] [] s t)

/-- With D clear, SBC in every operand form and state completes: A takes A − operand − (1 − carry) modulo 256, C is
set exactly when that difference is not negative, V exactly when the signed difference lies outside −128..127, Z
and N follow A, and nothing else changes. It is ADC of the operand's one's complement. The encodings are those
of the rule. -/
def Obligations.BinarySubtractionSetsBorrowAndOverflow : Prop :=
  encodings .SBC [(0xE9, .IMM, 2), (0xE5, .ZP, 3), (0xF5, .ZPX, 4), (0xED, .ABS, 4), (0xFD, .ABSX, 4), (0xF9, .ABSY, 4), (0xE1, .INDX, 6), (0xF1, .INDY, 5)] ∧
  (∀ (o : ReadOperand) (s : State), s.flag .D = false → completes (.sbc o) s fun t =>
    let m := o.value s
    let b : Int := 1 - ((s.flag .C).toNat : Int)
    (t.a.toNat : Int) = ((s.a.toNat : Int) - m.toNat - b) % 256 ∧
    t.flag .C = decide ((s.a.toNat : Int) - m.toNat - b ≥ 0) ∧
    t.flag .V = decide (¬ (-128 ≤ s.a.toInt - m.toInt - b ∧ s.a.toInt - m.toInt - b ≤ 127)) ∧
    zeroNegativeOf t.a t ∧ straight (.sbc o) (o.extra s) s t ∧ frame [.A] [.N, .V, .Z, .C] [] s t) ∧
  (∀ (a m : Byte) (c : Bool), subBinary a m c = addBinary a (~~~m) c)

/-- With D set and both operands packed BCD, SBC completes: A is the packed-BCD byte of the decimal difference
modulo 100, C is set exactly when there is no decimal borrow, Z and N follow A, V is a free value, and the
nibble-wise mechanism gives the same byte and carry. With an operand that is not packed BCD, A, C, Z, N and V
are free values. Everything else is as in binary mode. The counter that a free value is drawn at, the places of
the draws and how far the counter moves are the model's choice (log entry 4): the spec asks for any value. -/
def Obligations.DecimalSubtractionIsCorrectOnBcd : Prop :=
  (∀ (o : ReadOperand) (s : State), s.flag .D = true → validBcd s.a = true → validBcd (o.value s) = true →
    completes (.sbc o) s fun t =>
    let d : Int := (dec s.a : Int) - dec (o.value s) - (1 - ((s.flag .C).toNat : Int))
    validBcd t.a = true ∧ (dec t.a : Int) = d % 100 ∧ t.flag .C = decide (d ≥ 0) ∧
    nibbleSub s.a (o.value s) (s.flag .C) = (t.a, t.flag .C) ∧
    zeroNegativeOf t.a t ∧ t.flag .V = Config.freeBit s.freeCtr ∧ t.freeCtr = s.freeCtr + 1 ∧
    t.pc = s.pc + BitVec.ofNat 16 (Instr.sbc o).length ∧ costs (baseCycles (.sbc o) + o.extra s) s t ∧
    frame [.A] [.N, .V, .Z, .C] [] s t) ∧
  (∀ (o : ReadOperand) (s : State), s.flag .D = true → (validBcd s.a && validBcd (o.value s)) = false →
    completes (.sbc o) s fun t =>
    t.a = Config.freeByte s.freeCtr ∧ t.flag .C = Config.freeBit s.freeCtr ∧ t.flag .Z = Config.freeBit (s.freeCtr + 1) ∧
    t.flag .N = Config.freeBit (s.freeCtr + 2) ∧ t.flag .V = Config.freeBit (s.freeCtr + 3) ∧
    t.freeCtr = s.freeCtr + 4 ∧ t.pc = s.pc + BitVec.ofNat 16 (Instr.sbc o).length ∧
    costs (baseCycles (.sbc o) + o.extra s) s t ∧ frame [.A] [.N, .V, .Z, .C] [] s t)

/-- Each compare, in every operand form and state, completes: C is set when the register is at least the operand
(unsigned), Z when they are equal, N is bit 7 of the difference modulo 256; V, the other flags, every register
and every byte of memory are unchanged. The encodings are those of the rules. -/
def Obligations.ComparesAreUnsignedSubtractions : Prop :=
  encodings .CMP [(0xC9, .IMM, 2), (0xC5, .ZP, 3), (0xD5, .ZPX, 4), (0xCD, .ABS, 4), (0xDD, .ABSX, 4), (0xD9, .ABSY, 4), (0xC1, .INDX, 6), (0xD1, .INDY, 5)] ∧
  encodings .CPX [(0xE0, .IMM, 2), (0xE4, .ZP, 3), (0xEC, .ABS, 4)] ∧
  encodings .CPY [(0xC0, .IMM, 2), (0xC4, .ZP, 3), (0xCC, .ABS, 4)] ∧
  (∀ (o : ReadOperand) (s : State), completes (.cmp o) s fun t =>
    t.flag .C = decide (s.a.toNat ≥ (o.value s).toNat) ∧ t.flag .Z = decide (s.a = o.value s) ∧
    t.flag .N = decide (((s.a.toNat : Int) - (o.value s).toNat) % 256 ≥ 128) ∧
    straight (.cmp o) (o.extra s) s t ∧ frame [] [.N, .Z, .C] [] s t) ∧
  (∀ (o : ReadOperand) (s : State), completes (.cpx o) s fun t =>
    t.flag .C = decide (s.x.toNat ≥ (o.value s).toNat) ∧ t.flag .Z = decide (s.x = o.value s) ∧
    t.flag .N = decide (((s.x.toNat : Int) - (o.value s).toNat) % 256 ≥ 128) ∧
    straight (.cpx o) (o.extra s) s t ∧ frame [] [.N, .Z, .C] [] s t) ∧
  (∀ (o : ReadOperand) (s : State), completes (.cpy o) s fun t =>
    t.flag .C = decide (s.y.toNat ≥ (o.value s).toNat) ∧ t.flag .Z = decide (s.y = o.value s) ∧
    t.flag .N = decide (((s.y.toNat : Int) - (o.value s).toNat) % 256 ≥ 128) ∧
    straight (.cpy o) (o.extra s) s t ∧ frame [] [.N, .Z, .C] [] s t)

/-- INC and DEC, in every memory mode and state, complete: the byte at the effective address becomes its old value
plus or minus one modulo 256, Z and N follow it, C and V and every other flag, every register and every other
byte are unchanged, and a page crossing costs nothing. The encodings are those of the rules. -/
def Obligations.MemoryIncrementsWrapSilently : Prop :=
  encodings .INC [(0xE6, .ZP, 5), (0xF6, .ZPX, 6), (0xEE, .ABS, 6), (0xFE, .ABSX, 7)] ∧
  encodings .DEC [(0xC6, .ZP, 5), (0xD6, .ZPX, 6), (0xCE, .ABS, 6), (0xDE, .ABSX, 7)] ∧
  (∀ (m : MemOperand) (s : State), completes (.inc m) s fun t =>
    (t.read (m.ea s)).toNat = ((s.read (m.ea s)).toNat + 1) % 256 ∧ zeroNegativeOf (t.read (m.ea s)) t ∧
    straight (.inc m) 0 s t ∧ frame [] [.N, .Z] [m.ea s] s t) ∧
  (∀ (m : MemOperand) (s : State), completes (.dec m) s fun t =>
    (t.read (m.ea s)).toNat = ((s.read (m.ea s)).toNat + 255) % 256 ∧ zeroNegativeOf (t.read (m.ea s)) t ∧
    straight (.dec m) 0 s t ∧ frame [] [.N, .Z] [m.ea s] s t)

/-- Each completes in every state: the register becomes its old value plus or minus one modulo 256, Z and N follow
it, and no other register, flag or byte of memory changes. The encodings are those of the rules. -/
def Obligations.RegisterIncrementsWrapSilently : Prop :=
  encodings .INX [(0xE8, .IMP, 2)] ∧
  encodings .INY [(0xC8, .IMP, 2)] ∧
  encodings .DEX [(0xCA, .IMP, 2)] ∧
  encodings .DEY [(0x88, .IMP, 2)] ∧
  (∀ s : State, completes .inx s fun t => t.x.toNat = (s.x.toNat + 1) % 256 ∧ zeroNegativeOf t.x t ∧
    straight .inx 0 s t ∧ frame [.X] [.N, .Z] [] s t) ∧
  (∀ s : State, completes .iny s fun t => t.y.toNat = (s.y.toNat + 1) % 256 ∧ zeroNegativeOf t.y t ∧
    straight .iny 0 s t ∧ frame [.Y] [.N, .Z] [] s t) ∧
  (∀ s : State, completes .dex s fun t => t.x.toNat = (s.x.toNat + 255) % 256 ∧ zeroNegativeOf t.x t ∧
    straight .dex 0 s t ∧ frame [.X] [.N, .Z] [] s t) ∧
  (∀ s : State, completes .dey s fun t => t.y.toNat = (s.y.toNat + 255) % 256 ∧ zeroNegativeOf t.y t ∧
    straight .dey 0 s t ∧ frame [.Y] [.N, .Z] [] s t)

/-- Each, in every operand form and state, completes: every bit of A becomes the and, or or exclusive or of A's and
the operand's bit, Z and N follow A, and nothing else changes. The encodings are those of the rules. -/
def Obligations.LogicalOperationsActBitByBit : Prop :=
  encodings .AND [(0x29, .IMM, 2), (0x25, .ZP, 3), (0x35, .ZPX, 4), (0x2D, .ABS, 4), (0x3D, .ABSX, 4), (0x39, .ABSY, 4), (0x21, .INDX, 6), (0x31, .INDY, 5)] ∧
  encodings .ORA [(0x09, .IMM, 2), (0x05, .ZP, 3), (0x15, .ZPX, 4), (0x0D, .ABS, 4), (0x1D, .ABSX, 4), (0x19, .ABSY, 4), (0x01, .INDX, 6), (0x11, .INDY, 5)] ∧
  encodings .EOR [(0x49, .IMM, 2), (0x45, .ZP, 3), (0x55, .ZPX, 4), (0x4D, .ABS, 4), (0x5D, .ABSX, 4), (0x59, .ABSY, 4), (0x41, .INDX, 6), (0x51, .INDY, 5)] ∧
  (∀ (o : ReadOperand) (s : State), completes (.and o) s fun t =>
    (∀ k : Nat, k < 8 → t.a.getLsbD k = (s.a.getLsbD k && (o.value s).getLsbD k)) ∧ zeroNegativeOf t.a t ∧
    straight (.and o) (o.extra s) s t ∧ frame [.A] [.N, .Z] [] s t) ∧
  (∀ (o : ReadOperand) (s : State), completes (.ora o) s fun t =>
    (∀ k : Nat, k < 8 → t.a.getLsbD k = (s.a.getLsbD k || (o.value s).getLsbD k)) ∧ zeroNegativeOf t.a t ∧
    straight (.ora o) (o.extra s) s t ∧ frame [.A] [.N, .Z] [] s t) ∧
  (∀ (o : ReadOperand) (s : State), completes (.eor o) s fun t =>
    (∀ k : Nat, k < 8 → t.a.getLsbD k = (s.a.getLsbD k != (o.value s).getLsbD k)) ∧ zeroNegativeOf t.a t ∧
    straight (.eor o) (o.extra s) s t ∧ frame [.A] [.N, .Z] [] s t)

/-- BIT, in every memory mode and state, completes: Z is set when A and the operand have no common bit, N and V are
the operand's bits 7 and 6 whatever A is, and A, every other register and flag and every byte of memory are
unchanged. The encodings are those of the rule. -/
def Obligations.BitTestCopiesOperandBits : Prop :=
  encodings .BIT [(0x24, .ZP, 3), (0x2C, .ABS, 4)] ∧
  (∀ (m : MemOperand) (s : State), completes (.bit m) s fun t =>
    let v := s.read (m.ea s)
    (t.flag .Z = true ↔ ∀ k : Nat, k < 8 → (s.a.getLsbD k && v.getLsbD k) = false) ∧
    t.flag .N = v.getLsbD 7 ∧ t.flag .V = v.getLsbD 6 ∧ straight (.bit m) 0 s t ∧ frame [] [.N, .V, .Z] [] s t)

/-- Each, on A and in every memory mode, completes: the result, found where the operand came from, is twice the
operand modulo 256 or half of it, with the old carry entering at the free end for the rotates; C is the bit
shifted out; Z and N follow the result; nothing else changes, one byte of memory at most is written, and a page
crossing costs nothing. The encodings are those of the rules. -/
def Obligations.ShiftsAndRotatesMoveThroughCarry : Prop :=
  encodings .ASL [(0x0A, .ACC, 2), (0x06, .ZP, 5), (0x16, .ZPX, 6), (0x0E, .ABS, 6), (0x1E, .ABSX, 7)] ∧
  encodings .LSR [(0x4A, .ACC, 2), (0x46, .ZP, 5), (0x56, .ZPX, 6), (0x4E, .ABS, 6), (0x5E, .ABSX, 7)] ∧
  encodings .ROL [(0x2A, .ACC, 2), (0x26, .ZP, 5), (0x36, .ZPX, 6), (0x2E, .ABS, 6), (0x3E, .ABSX, 7)] ∧
  encodings .ROR [(0x6A, .ACC, 2), (0x66, .ZP, 5), (0x76, .ZPX, 6), (0x6E, .ABS, 6), (0x7E, .ABSX, 7)] ∧
  (∀ (o : ShiftOperand) (s : State), let v := (o.value s).toNat
    shifts (.asl o) o (2 * v % 256) (decide (v ≥ 128)) s) ∧
  (∀ (o : ShiftOperand) (s : State), let v := (o.value s).toNat
    shifts (.lsr o) o (v / 2) (decide (v % 2 = 1)) s) ∧
  (∀ (o : ShiftOperand) (s : State), let v := (o.value s).toNat
    shifts (.rol o) o (2 * v % 256 + (s.flag .C).toNat) (decide (v ≥ 128)) s) ∧
  (∀ (o : ShiftOperand) (s : State), let v := (o.value s).toNat
    shifts (.ror o) o (v / 2 + 128 * (s.flag .C).toNat) (decide (v % 2 = 1)) s)

/-- JMP in both forms completes in every state: the absolute form goes to its operand; the indirect form to the word
at its pointer, low byte first, where for a pointer that ends a page the high byte's address depends on the open
parameter JMP_IND_PAGE_WRAP, both values of which are stated; nothing else changes. The encodings are those of
the rule. -/
def Obligations.JumpsGoToTheirTarget : Prop :=
  encodings .JMP [(0x4C, .ABS, 3), (0x6C, .IND, 5)] ∧
  (∀ (a : Addr) (s : State), completes (.jmp (.abs a)) s fun t =>
    t.pc = a ∧ costs 3 s t ∧ frame [] [] [] s t ∧ t.freeCtr = s.freeCtr) ∧
  (∀ (ptr : Addr) (s : State), completes (.jmp (.ind ptr)) s fun t =>
    (lo ptr ≠ 0xFF → t.pc = word (s.read (ptr + 1)) (s.read ptr)) ∧
    (lo ptr = 0xFF → Config.jmpIndPageWrap = false → t.pc = word (s.read (ptr + 1)) (s.read ptr)) ∧
    (lo ptr = 0xFF → Config.jmpIndPageWrap = true → t.pc = word (s.read (word (hi ptr) 0x00)) (s.read ptr)) ∧
    costs 5 s t ∧ frame [] [] [] s t ∧ t.freeCtr = s.freeCtr)

/-- JSR completes in every state: the address of its own last byte lies on the stack, high byte at the old SP and
low byte below it, SP is two less modulo 256, and the program counter is the target. RTS completes: the program
counter is the pulled word plus one modulo 65536, SP is two more, and no byte of memory changes. Nothing else
changes. The encodings are those of the rules. -/
def Obligations.CallPushesItsLastByteAddress : Prop :=
  encodings .JSR [(0x20, .ABS, 6)] ∧ encodings .RTS [(0x60, .IMP, 6)] ∧
  (∀ (target : Addr) (s : State), completes (.jsr target) s fun t =>
    t.pc = target ∧ t.sp = s.sp - 2 ∧ t.read (stackAddr s.sp) = hi (s.pc + 2) ∧
    t.read (stackAddr (s.sp - 1)) = lo (s.pc + 2) ∧ costs 6 s t ∧
    frame [.SP] [] [stackAddr s.sp, stackAddr (s.sp - 1)] s t ∧ t.freeCtr = s.freeCtr) ∧
  (∀ s : State, completes .rts s fun t =>
    t.pc = word (s.read (stackAddr (s.sp + 2))) (s.read (stackAddr (s.sp + 1))) + 1 ∧ t.sp = s.sp + 2 ∧ costs 6 s t ∧
    frame [.SP] [] [] s t ∧ t.freeCtr = s.freeCtr)

/-- For every state and target: executing JSR and then RTS from wherever the program counter stands resumes at the
address after the three-byte JSR, with SP, the flags and the general registers as before the call, for every SP,
also when it wraps. -/
def Obligations.ReturnResumesAfterTheCall : Prop :=
  ∀ (s t u : State) (target pc : Addr), exec (.jsr target) s = .next t → exec .rts (t.setPC pc) = .next u →
    u.pc = s.pc + 3 ∧ u.sp = s.sp ∧ u.p = s.p ∧ sameRegsBut [] s u

/-- Each branch, with every offset and in every state, completes: when its flag has the tested value the program
counter is the address after the branch plus the signed offset, modulo 65536, for 3 cycles within the page of
that address and 4 to another; otherwise it is the address after the branch, for 2 cycles; no flag, register or
byte changes. The encodings are those of the rules. -/
def Obligations.BranchesTestTheirFlag : Prop :=
  encodings .BCC [(0x90, .REL, 2)] ∧
  encodings .BCS [(0xB0, .REL, 2)] ∧
  encodings .BEQ [(0xF0, .REL, 2)] ∧
  encodings .BNE [(0xD0, .REL, 2)] ∧
  encodings .BMI [(0x30, .REL, 2)] ∧
  encodings .BPL [(0x10, .REL, 2)] ∧
  encodings .BVC [(0x50, .REL, 2)] ∧
  encodings .BVS [(0x70, .REL, 2)] ∧
  (∀ (off : Byte) (s : State), branches (.bcc off) off (s.flag .C == false) s) ∧
  (∀ (off : Byte) (s : State), branches (.bcs off) off (s.flag .C == true) s) ∧
  (∀ (off : Byte) (s : State), branches (.beq off) off (s.flag .Z == true) s) ∧
  (∀ (off : Byte) (s : State), branches (.bne off) off (s.flag .Z == false) s) ∧
  (∀ (off : Byte) (s : State), branches (.bmi off) off (s.flag .N == true) s) ∧
  (∀ (off : Byte) (s : State), branches (.bpl off) off (s.flag .N == false) s) ∧
  (∀ (off : Byte) (s : State), branches (.bvc off) off (s.flag .V == false) s) ∧
  (∀ (off : Byte) (s : State), branches (.bvs off) off (s.flag .V == true) s)

/-- PHA and PHP push A and the status with bits 4 and 5 set, changing only SP and the byte at the old SP; PLA pulls
A and sets N and Z from it; PLP pulls the flags other than bits 4 and 5, which keep their values; the pulls
change no memory. Each completes in every state, for every SP. The encodings are those of the rules. -/
def Obligations.StackInstructionsPushAndPull : Prop :=
  encodings .PHA [(0x48, .IMP, 3)] ∧
  encodings .PLA [(0x68, .IMP, 4)] ∧
  encodings .PHP [(0x08, .IMP, 3)] ∧
  encodings .PLP [(0x28, .IMP, 4)] ∧
  (∀ s : State, completes .pha s fun t => t.read (stackAddr s.sp) = s.a ∧ t.sp = s.sp - 1 ∧
    straight .pha 0 s t ∧ frame [.SP] [] [stackAddr s.sp] s t) ∧
  (∀ s : State, completes .php s fun t => t.sp = s.sp - 1 ∧ t.p = s.p ∧
    (∀ f, getFlag (t.read (stackAddr s.sp)) f = (f == .B || f == .U || s.flag f)) ∧
    straight .php 0 s t ∧ frame [.SP] [] [stackAddr s.sp] s t) ∧
  (∀ s : State, completes .pla s fun t => t.a = s.read (stackAddr (s.sp + 1)) ∧ zeroNegativeOf t.a t ∧ t.sp = s.sp + 1 ∧
    straight .pla 0 s t ∧ frame [.A, .SP] [.N, .Z] [] s t) ∧
  (∀ s : State, completes .plp s fun t => t.sp = s.sp + 1 ∧
    (∀ f, f ≠ .B → f ≠ .U → t.flag f = getFlag (s.read (stackAddr (s.sp + 1))) f) ∧
    straight .plp 0 s t ∧ frame [.SP] [.N, .V, .D, .I, .Z, .C] [] s t)

/-- Each completes in every state: its flag takes its value, every other flag, every register and every byte of
memory is unchanged, the program counter passes the one byte and 2 cycles are consumed. The encodings are those
of the rules. -/
def Obligations.FlagInstructionsWriteOneFlag : Prop :=
  encodings .CLC [(0x18, .IMP, 2)] ∧
  encodings .SEC [(0x38, .IMP, 2)] ∧
  encodings .CLI [(0x58, .IMP, 2)] ∧
  encodings .SEI [(0x78, .IMP, 2)] ∧
  encodings .CLD [(0xD8, .IMP, 2)] ∧
  encodings .SED [(0xF8, .IMP, 2)] ∧
  encodings .CLV [(0xB8, .IMP, 2)] ∧
  (∀ s : State, completes .clc s fun t => t.flag .C = false ∧ straight .clc 0 s t ∧ frame [] [.C] [] s t) ∧
  (∀ s : State, completes .sec s fun t => t.flag .C = true ∧ straight .sec 0 s t ∧ frame [] [.C] [] s t) ∧
  (∀ s : State, completes .cli s fun t => t.flag .I = false ∧ straight .cli 0 s t ∧ frame [] [.I] [] s t) ∧
  (∀ s : State, completes .sei s fun t => t.flag .I = true ∧ straight .sei 0 s t ∧ frame [] [.I] [] s t) ∧
  (∀ s : State, completes .cld s fun t => t.flag .D = false ∧ straight .cld 0 s t ∧ frame [] [.D] [] s t) ∧
  (∀ s : State, completes .sed s fun t => t.flag .D = true ∧ straight .sed 0 s t ∧ frame [] [.D] [] s t) ∧
  (∀ s : State, completes .clv s fun t => t.flag .V = false ∧ straight .clv 0 s t ∧ frame [] [.V] [] s t)

/-- BRK completes in every state: the bytes of its address plus 2 lie at the old SP and below it, high byte first,
and the status with bits 4 and 5 set, taken before I is set, below them; SP is three less modulo 256; I is set
and no other flag changes, D and the register's bit 4 included; the program counter is the word at 0xFFFE, low
byte first; A, X, Y and every other byte are unchanged; the step costs 7 cycles and reports a break. The
encoding is that of the rule. -/
def Obligations.BreakTakesTheTrap : Prop :=
  encodings .BRK [(0x00, .IMP, 7)] ∧
  (∀ s : State, completes .brk s fun t =>
    t.read (stackAddr s.sp) = hi (s.pc + 2) ∧ t.read (stackAddr (s.sp - 1)) = lo (s.pc + 2) ∧
    (∀ f, getFlag (t.read (stackAddr (s.sp - 2))) f = (f == .B || f == .U || s.flag f)) ∧
    t.sp = s.sp - 3 ∧ t.flag .I = true ∧ t.pc = word (t.read 0xFFFF) (t.read 0xFFFE) ∧
    t.cyc = s.cyc + 7 ∧ t.result = ⟨7, true⟩ ∧ t.freeCtr = s.freeCtr ∧
    frame [.SP] [.I] [stackAddr s.sp, stackAddr (s.sp - 1), stackAddr (s.sp - 2)] s t)

/-- RTI completes in every state: N, V, D, I, Z and C are those of the first pulled byte, bits 5 and 4 keep their
values, the program counter is the word pulled next, low byte first and with nothing added, SP is three more
modulo 256, no byte of memory and no other register changes, 6 cycles, no break. The encoding is that of the
rule. -/
def Obligations.ReturnFromInterruptRestores : Prop :=
  encodings .RTI [(0x40, .IMP, 6)] ∧
  (∀ s : State, completes .rti s fun t =>
    (∀ f, f ≠ .B → f ≠ .U → t.flag f = getFlag (s.read (stackAddr (s.sp + 1))) f) ∧
    t.pc = word (s.read (stackAddr (s.sp + 3))) (s.read (stackAddr (s.sp + 2))) ∧ t.sp = s.sp + 3 ∧
    costs 6 s t ∧ t.freeCtr = s.freeCtr ∧ frame [.SP] [.N, .V, .D, .I, .Z, .C] [] s t)

/-- For every state: executing BRK and then RTI, from wherever the program counter stands, gives back every flag (I
included), A, X, Y and SP, and the program counter is the address of the BRK plus 2, for every SP, also when it
wraps. -/
def Obligations.ReturnUndoesTheBreak : Prop :=
  ∀ (s t u : State) (pc : Addr), exec .brk s = .next t → exec .rti (t.setPC pc) = .next u →
    u.pc = s.pc + 2 ∧ u.p = s.p ∧ sameRegsBut [] s u

/-- NOP completes in every state and changes nothing but the program counter (one more), the cycle counter (2 more)
and the step result. Each of the 105 listed bytes decodes to an undefined-opcode instruction, which completes
and changes nothing but the program counter (one more) and the cycle counter (by the open parameter
UNDEF_BASE_CYCLES), with no break; the disassembler prints the placeholder alone with one byte consumed. -/
def Obligations.NoOperationsOnlyAdvance : Prop :=
  encodings .NOP [(0xEA, .IMP, 2)] ∧
  (∀ s : State, exec .nop s = .next { s with pc := s.pc + 1, cyc := s.cyc + 2, result := ⟨2, false⟩ }) ∧
  undefinedOpcodes.length = 105 ∧ undefinedOpcodes.Nodup ∧
  (∀ op ∈ undefinedOpcodes, ∀ b1 b2 : Byte, decode3 op b1 b2 = .und op) ∧
  (∀ (op : Byte) (s : State), exec (.und op) s = .next
    { s with pc := s.pc + 1, cyc := s.cyc + Config.undefBaseCycles, result := ⟨Config.undefBaseCycles, false⟩ }) ∧
  (∀ op ∈ undefinedOpcodes, ∀ (placeholder : String) (base : Addr) (rest : List Byte),
    decodeOne placeholder (op :: rest) 0 base = ⟨base, [op], placeholder⟩)

/-- For every instruction and state: if exec answers a next state, every address outside the ones the instruction
stores to (its effective address for the stores, increments and shifts on memory, the stack locations of its
pushes, none for every other form) reads as before. -/
def Obligations.OnlyListedBytesOfMemoryChange : Prop :=
  ∀ (i : Instr) (s t : State), exec i s = .next t → sameMemoryBut (storedAt i s) s t

/-- For every instruction and state: if exec answers a next state, A, X, Y and SP are unchanged unless the
instruction writes them, the run-control bits are unchanged, and free values are drawn only by ADC and SBC with
D set, the cases of U2 and U3. The counter of free values, in which the last clause is told, is the model's
choice (log entry 4). -/
def Obligations.OnlyListedRegistersChange : Prop :=
  ∀ (i : Instr) (s t : State), exec i s = .next t →
    sameRegsBut (regsWritten i) s t ∧ sameRunControl s t ∧
    (t.freeCtr ≠ s.freeCtr → s.flag .D = true ∧ (i.mnemonic = .ADC ∨ i.mnemonic = .SBC))

/-- For every instruction and state: if exec answers a next state, every flag outside the instruction's row of the
flag table is unchanged; no row lists B or U, and only SEI, CLI, PLP, RTI and BRK list I. -/
def Obligations.OnlyListedFlagsChange : Prop :=
  (∀ (i : Instr) (s t : State), exec i s = .next t → sameFlagsBut (flagsWritten i) s t) ∧
  (∀ i : Instr, .B ∉ flagsWritten i ∧ .U ∉ flagsWritten i) ∧
  (∀ i : Instr, .I ∈ flagsWritten i → i ∈ [.sei, .cli, .plp, .rti, .brk])

/-- For every state: change the cycle counter, the two run-control bits, the run in progress and the latest step
result to anything; the step then answers the same next state but for those fields, which are carried over, the
cycle counter advanced by the same cycles. So a program can read none of them. Where the step is a decimal ADC
or SBC, that both draw the same free values, because the counter they are drawn at is the same, is the model's
choice (log entry 4). -/
def Obligations.RunControlAndCounterAreInvisible : Prop :=
  ∀ (s t : State) (c : Nat) (b h : Bool) (r : Option RunProgress) (res : StepResult), step s = .next t →
    step { s with cyc := c, running := b, haltRequested := h, run := r, result := res } =
      .next { t with cyc := c + t.result.cycles, running := b, haltRequested := h, run := r }

/-- For every state and byte: replace bits 4 and 5 of P by the byte's; the step then answers the same next state but
for those two bits, which keep their values. So programs cannot observe them, through the pushed status neither.
Where the step is a decimal ADC or SBC, that both draw the same free values, because the counter they are drawn
at is the same, is the model's choice (log entry 4). -/
def Obligations.StatusBitsFourAndFiveAreUnobservable : Prop :=
  ∀ (s t : State) (x : Byte), step s = .next t →
    step { s with p := (s.p &&& 0xCF) ||| (x &&& 0x30) } = .next { t with p := (t.p &&& 0xCF) ||| (x &&& 0x30) }

/-- For every instruction other than PHP and BRK, which push the whole status, and every state: set I to anything;
exec then answers the same next state but for I, which is carried over unless the instruction writes it. In
particular no interrupt is masked or taken. Where the instruction is a decimal ADC or SBC, that both draw the
same free values, because the counter they are drawn at is the same, is the model's choice (log entry 4). -/
def Obligations.InterruptDisableIsReadByNothing : Prop :=
  ∀ (i : Instr) (s t : State) (b : Bool), i ≠ .php → i ≠ .brk → exec i s = .next t →
    exec i (s.setFlag .I b) = .next (if .I ∈ flagsWritten i then t else t.setFlag .I b)

/-- For every state that meets the invariant, reached by a run or not: the state after a step meets it. The
canonical memory form is the model's own (log entry 2); the two status bits are the spec's claim that U=1 and
B=0 hold at every step boundary. -/
def Obligations.StepKeepsTheInvariant : Prop :=
  ∀ s t : State, s.inv = true → step s = .next t → t.inv = true

/-- For every state that meets the invariant: any operation of the interface other than a write of P leaves a state
that meets it, and so does one transition of a run with any batch quota. The canonical memory form, which is
part of the invariant, is the model's choice (log entry 2), and so are the transitions a run is cut into (log
entry 5). -/
def Obligations.HostAndRunKeepTheInvariant : Prop :=
  (∀ (op : HostOp) (s t : State) (reply : HostReply), (∀ v, op ≠ .writeReg .P v) → s.inv = true →
    hostOp op s = .ok (t, reply) → t.inv = true) ∧
  (∀ (quota : Nat) (s : State), s.inv = true → (runTickWith quota s).1.inv = true)

/-- Run and Step called during a run are refused; with no run in progress Step is one step and returns its result; a
started run stands at the top of a batch. There a halt request stops it and is cleared, otherwise a batch begins
with no cycles used. Inside a batch, while the quota is not reached, one step runs, and then a break stops the
run if it was asked to, otherwise the step's cycles are counted; when the quota is reached the batch ends, and
after the boundary that follows comes the next batch's top. That a run is cut into these transitions, with lists
of events for its notifications, is the model's choice (log entry 5); R298 gives the loop they make up. -/
def Obligations.RunFollowsTheBatchLoop : Prop :=
  (∀ (b : Bool) (s : State), s.running = true →
    runStart b s = .error .runMidRun ∧ hostStep s = .error .stepMidRun) ∧
  (∀ (b : Bool) (s : State), s.running = false →
    runStart b s = .ok { s with running := true, run := some ⟨b, 0, .top⟩ } ∧
    ∃ t, step s = .next t ∧ hostStep s = .ok (t, .stepResult t.result)) ∧
  (∀ (q used : Nat) (b : Bool) (s : State), s.run = some ⟨b, used, .top⟩ →
    runTickWith q s = if s.haltRequested
      then ({ s with haltRequested := false, running := false, run := none }, [.stop .userHalt])
      else ({ s with run := some ⟨b, 0, .batch⟩ }, [])) ∧
  (∀ (q used : Nat) (b : Bool) (s : State), s.run = some ⟨b, used, .batch⟩ → used < q →
    ∃ t, step s = .next t ∧ runTickWith q s = if t.result.brk && b
      then ({ t with running := false, run := none }, [.step t.result, .stop .break_])
      else ({ t with run := some ⟨b, used + t.result.cycles, .batch⟩ }, [.step t.result])) ∧
  (∀ (q used : Nat) (b : Bool) (s : State), s.run = some ⟨b, used, .batch⟩ → ¬ used < q →
    runTickWith q s = ({ s with run := some ⟨b, used, .boundary⟩ }, [.batch])) ∧
  (∀ (q used : Nat) (b : Bool) (s : State), s.run = some ⟨b, used, .boundary⟩ →
    runTickWith q s = ({ s with run := some ⟨b, used, .top⟩ }, []))

/-- Halt sets the flag and nothing else. For every state and quota, unless the run stands at the top of a batch, a
transition of the run is the same whether or not a halt is requested, and carries the request over; at every top
of a batch a request stops the run with reason user-halt before any step, is cleared, and changes nothing else.
So a Halt called with no run in progress stops the next run before its first batch. The transitions a run is cut
into, and their lists of events, are the model's choice (log entry 5). -/
def Obligations.HaltWaitsForTheTopOfABatch : Prop :=
  (∀ s : State, halt s = { s with haltRequested := true }) ∧
  (∀ (q : Nat) (s : State) (h : Bool), (∀ r, s.run = some r → r.phase ≠ .top) →
    runTickWith q { s with haltRequested := h } =
      ({ (runTickWith q s).1 with haltRequested := h }, (runTickWith q s).2)) ∧
  (∀ (q used : Nat) (b : Bool) (s : State), s.run = some ⟨b, used, .top⟩ → s.haltRequested = true →
    runTickWith q s = ({ s with haltRequested := false, running := false, run := none }, [.stop .userHalt])) ∧
  (∀ (b : Bool) (s t : State) (q : Nat), s.running = false → runStart b (halt s) = .ok t →
    (runTickWith q t).2 = [.stop .userHalt] ∧ (runTickWith q t).1.running = false ∧
    (runTickWith q t).1.haltRequested = false ∧ (runTickWith q t).1.pc = s.pc ∧ (runTickWith q t).1.cyc = s.cyc)

/-- For every state and number of transitions, the events a run notifies never hold a stop with reason error, since
no step can fail. The transitions of a run and their lists of events are the model's choice (log entry 5). -/
def Obligations.ErrorIsNeverAStopReason : Prop :=
  ∀ (k : Nat) (s : State), Event.stop .error ∉ (runTicks k s).2

/-- For every state with no run in progress and no halt request: if the first step with brk = true comes after n
others, then a run started with break-stop reaches, after finitely many transitions, exactly the state after
that step, not running, and the last event is a stop with reason break; the batches in between change nothing.
It holds for every value of BATCH_QUOTA and UNDEF_BASE_CYCLES. That a run is a sequence of transitions is the
model's choice (log entry 5), and so is that after decimal operations both ways draw the same free values (log
entry 4). -/
def Obligations.BreakBoundedRunIsSteppingToTheBreak : Prop :=
  ∀ (n : Nat) (s u : State), s.running = false → s.run = none → s.haltRequested = false → breakAfter n s = some u →
    ∃ (start : State) (k : Nat) (events : List Event), runStart true s = .ok start ∧
      runTicks k start = (u, events ++ [.stop .break_])

/-- For every buffer, base, start and stop: record k is the one decoded at start plus the lengths of the records
before it; each consumes the table length of its first byte; together they reach stop, and there are none if
start is not before stop. What a start past stop and a stop past the end of the buffer give is the model's
choice (log entry 19), since the range of R236 is 0 ≤ start ≤ stop ≤ length. -/
def Obligations.DisassemblyTilesTheRange : Prop :=
  ∀ (placeholder : String) (buf : List Byte) (base : Addr) (start stop : Nat),
    let records := disassembleWith placeholder buf base start stop
    (∀ k : Nat, k < records.length → records[k]? =
      some (decodeOne placeholder buf (start + ((records.take k).map (·.bytes.length)).sum) base)) ∧
    (∀ d ∈ records, d.bytes.length = (tableMode (d.bytes.headD 0)).length) ∧
    stop ≤ start + (records.map (·.bytes.length)).sum ∧
    (start < stop → start + (records.map (·.bytes.length)).sum < stop + 3) ∧ (stop ≤ start → records = [])

/-- For every branch instruction in every state in which it is taken, the program counter after it is the absolute
target that the disassembler computes from the branch's address and offset byte. -/
def Obligations.PrintedBranchTargetIsWhereTheBranchGoes : Prop :=
  ∀ (i : Instr) (s : State) (off : Byte), branchOf i s = some (off, true) →
    completes i s fun t => t.pc = relativeTarget s.pc off

/-- For all addresses: the assembler finds an offset byte exactly when the target less the branch's end address lies
in −128..127, and then the end address plus the sign-extended byte is the target modulo 65536. The same law
holds of any instruction end and target whose difference lies in −128..127. -/
def Obligations.BranchOffsetDecodesBack : Prop :=
  (∀ a target : Nat, branchOffset a target = none ↔
    ¬ (-128 ≤ (target : Int) - (a + 2) ∧ (target : Int) - (a + 2) ≤ 127)) ∧
  (∀ (a target : Nat) (b : Byte), branchOffset a target = some b →
    BitVec.ofNat 16 (a + 2) + sext16 b = BitVec.ofNat 16 target) ∧
  (∀ A B : Int, -128 ≤ B - A → B - A ≤ 127 → u16 A + sext16 (u8 (B - A)) = u16 B)

/-- For every mnemonic and operand text: if the resolver accepts it, the slot it selects holds an opcode byte of
that mnemonic; and an operand that begins with # is resolved to the immediate slot or refused. -/
def Obligations.ResolverSelectsOnlySupportedSlots : Prop :=
  (∀ (mn : Mnemonic) (t : Chars) (info : AddressingInfo), resolve mn t = .ok info → hasSlot mn info.slot = true) ∧
  (∀ (mn : Mnemonic) (t : Chars) (info : AddressingInfo), resolve mn ('#' :: t) = .ok info → info.slot = .IMM)

/-- For every well-formed instruction of the 151 opcodes with every operand value, placed at an address where it
does not pass the top of memory and, for a branch, where the target is not masked: the assembler accepts the
disassembled text at that address, with any byte-literal keyword that is no mnemonic, and emits the
instruction's encoding, except that an absolute operand below 0x0100 takes the zero-page form where the mnemonic
has it. -/
def Obligations.AssembleOfDisassembly : Prop :=
  ∀ (keyword placeholder : String) (i : Instr) (address : Addr) (bs : List Byte),
    mnemonicOf (keyword.toList.map Char.toUpper) = none → (∀ op, i ≠ .und op) → encode i = some bs →
    address.toNat + bs.length ≤ 65536 →
    (i.mode = .REL → ((relativeTarget address (bs.getD 1 0)).toNat : Int) = address.toNat + 2 + (bs.getD 1 0).toInt) →
    ∃ bs', encode (reassembled i) = some bs' ∧
      assembleWith keyword (decodeOne placeholder bs 0 address).text address = .ok bs'

/-- Assembling LDA #$01 and STA $0200 on two lines yields A9 01 8D 00 02. -/
def Obligations.AssemblerExample : Prop :=
  assembleWith "DCB" "LDA #$01\nSTA $0200" 0 = .ok [0xA9, 0x01, 0x8D, 0x00, 0x02]
end

