-- ==== Sys2Proof/Laws/Assembler.lean ====
section
/-! SUPPORT. What the string check of a source line and the line rules of pass 1 do. -/

namespace Sys2Proof.Machine

/-- A text without a double quote holds no string to refuse. -/
theorem stringsAllowed_of_no_quote {t : Chars} (h : '"' ∉ t) : stringsAllowed .outside t = true := by
  induction t with
  | nil => rfl
  | cons c cs ih =>
    simp only [List.mem_cons, not_or] at h
    simp [stringsAllowed, Ne.symm h.1, ih h.2]

/-- A line whose strings are allowed is the line that is classified. -/
theorem sourceLine_of_allowed {keyword t : Chars} {line : Nat} {st : Pass1}
    (h : stringsAllowed .outside (cleanLine t) = true) :
    sourceLine keyword line t st = classifyLine keyword line ((cleanLine t).length + 1) (cleanLine t) st := by
  simp [sourceLine, h]

/-- An origin-set line moves the cursor and leaves one record, at the address the cursor had (R254, R266). -/
theorem plainLine_origin {keyword t : Chars} {line w : Nat} {st : Pass1} (h : originOf t = some w) (hw : w ≤ 65536) :
    plainLine keyword line t st =
      .ok { st with cursor := w, metas := directive (firstWord t) (afterFirstWord t) line st.cursor [] :: st.metas } := by
  simp [plainLine, h, Pass1.emit, directive, Nat.not_lt.mpr hw]

end Sys2Proof.Machine
end

