-- ==== Sys2Proof/Laws/Decode.lean ====
section
/-! SUPPORT. Byte order, and that the opcode table asks for no operand form that does not exist. -/

namespace Sys2Proof

@[simp] theorem word_hi_lo (w : Addr) : word (hi w) (lo w) = w := by
  apply BitVec.eq_of_toNat_eq
  simp only [word, hi, lo, BitVec.toNat_append, BitVec.extractLsb'_toNat, Nat.shiftRight_zero]
  have := w.isLt
  rw [← Nat.shiftLeft_add_eq_or_of_lt (by omega), Nat.shiftLeft_eq, Nat.shiftRight_eq_div_pow]
  omega

theorem toNat_word (h l : Byte) : (word h l).toNat = h.toNat * 256 + l.toNat := by
  simp only [word, BitVec.toNat_append]
  have := l.isLt
  rw [← Nat.shiftLeft_add_eq_or_of_lt (by omega), Nat.shiftLeft_eq]

theorem toNat_lo (w : Addr) : (lo w).toNat = w.toNat % 256 := by
  simp [lo, BitVec.extractLsb'_toNat]

theorem toNat_hi (w : Addr) : (hi w).toNat = w.toNat / 256 := by
  have := w.isLt
  simp only [hi, BitVec.extractLsb'_toNat, Nat.shiftRight_eq_div_pow]
  omega

@[simp] theorem lo_word (h l : Byte) : lo (word h l) = l := by
  apply BitVec.eq_of_toNat_eq
  have := l.isLt
  rw [toNat_lo, toNat_word]
  omega

@[simp] theorem hi_word (h l : Byte) : hi (word h l) = h := by
  apply BitVec.eq_of_toNat_eq
  have := h.isLt
  have := l.isLt
  rw [toNat_hi, toNat_word]
  omega

/-- Every defined entry of the table names a mnemonic in a mode that the mnemonic's group supports. -/
theorem tableEntry_supported : ∀ op : Byte, ((tableEntry op).all fun e => e.mn.modes.contains e.mode) = true := by
  decide

/-- Every defined entry of the table stands at its own opcode byte. -/
theorem tableEntry_op {op : Byte} {e : TableEntry} (h : tableEntry op = some e) : e.op = op := by
  have := List.find?_some h
  simpa using this

/-- The memory operand read for a mode has that mode. -/
theorem memOperandOf_mode {mode : Mode} {b1 b2 : Byte} {m : MemOperand} (h : memOperandOf mode b1 b2 = some m) :
    m.mode = mode := by
  cases mode <;> simp [memOperandOf] at h <;> subst h <;> rfl

end Sys2Proof
end

