-- ==== Sys2Proof/Laws/Flags.lean ====
section
/-! SUPPORT. What each flag computation does to each flag, said once. -/

namespace Sys2Proof.Machine

theorem Flag.bit_lt (f : Flag) : f.bit < 8 := by cases f <;> decide

theorem Flag.bit_inj {f g : Flag} : f.bit = g.bit ↔ f = g := by
  cases f <;> cases g <;> decide

/-- One flag is written and the others are left (R12). -/
theorem getFlag_setFlag (p : Byte) (f g : Flag) (b : Bool) :
    getFlag (setFlag p f b) g = if g = f then b else getFlag p g := by
  cases f <;> cases g <;> cases b <;> simp [getFlag, setFlag, Flag.mask, Flag.bit]

@[simp] theorem getFlag_setFlag_same (p : Byte) (f : Flag) (b : Bool) : getFlag (setFlag p f b) f = b := by
  rw [getFlag_setFlag, if_pos rfl]

theorem getFlag_setFlag_other (p : Byte) {f g : Flag} (b : Bool) (h : g ≠ f) :
    getFlag (setFlag p f b) g = getFlag p g := by
  rw [getFlag_setFlag, if_neg h]

/-- Z and N follow the byte and the other flags are left (R26). -/
theorem getFlag_setZN (p v : Byte) (f : Flag) :
    getFlag (setZN p v) f = if f = .N then v.msb else if f = .Z then v == 0 else getFlag p f := by
  simp only [setZN, getFlag_setFlag]

/-- Bits 4 and 5 of the pushed status are 1, the others are the register's (R29). -/
theorem getFlag_pushedStatus (p : Byte) (f : Flag) :
    getFlag (pushedStatus p) f = if f = .B ∨ f = .U then true else getFlag p f := by
  cases f <;> simp [getFlag, pushedStatus, Flag.bit]

/-- Bits 4 and 5 keep the register's values, the others are the pulled byte's (R30). -/
theorem getFlag_pulledStatus (p v : Byte) (f : Flag) :
    getFlag (pulledStatus p v) f = if f = .B ∨ f = .U then getFlag p f else getFlag v f := by
  cases f <;> simp [getFlag, pulledStatus, Flag.bit]

/-- C, Z and N of a comparison, the other flags left (R144). -/
theorem getFlag_compareFlags (p reg m : Byte) (f : Flag) :
    getFlag (compareFlags p reg m) f =
      if f = .N then (reg - m).msb else if f = .Z then reg == m
      else if f = .C then decide (reg.toNat ≥ m.toNat) else getFlag p f := by
  simp only [compareFlags, getFlag_setFlag]

/-- V, N and Z of a bit test, the other flags left (R163). -/
theorem getFlag_bitFlags (p a m : Byte) (f : Flag) :
    getFlag (bitFlags p a m) f =
      if f = .V then m.getLsbD 6 else if f = .N then m.getLsbD 7 else if f = .Z then a &&& m == 0 else getFlag p f := by
  simp only [bitFlags, getFlag_setFlag]

/-- Two status bytes with the same eight flags are the same byte. -/
theorem status_ext {p q : Byte} (h : ∀ f, getFlag p f = getFlag q f) : p = q := by
  apply BitVec.eq_of_getLsbD_eq
  intro i hi
  have hf : ∃ f : Flag, f.bit = i := by
    match i, hi with
    | 0, _ => exact ⟨.C, rfl⟩
    | 1, _ => exact ⟨.Z, rfl⟩
    | 2, _ => exact ⟨.I, rfl⟩
    | 3, _ => exact ⟨.D, rfl⟩
    | 4, _ => exact ⟨.B, rfl⟩
    | 5, _ => exact ⟨.U, rfl⟩
    | 6, _ => exact ⟨.V, rfl⟩
    | 7, _ => exact ⟨.N, rfl⟩
  obtain ⟨f, rfl⟩ := hf
  exact h f

end Sys2Proof.Machine
end

