-- ==== Sys2Proof/Laws/Memory.lean ====
section
/-! SUPPORT. Memory as data: read after write, and that every memory operation keeps the canonical form. -/

namespace Sys2Proof.Machine

/-! ### Read after write -/

theorem Memory.read_erase_same (m : Memory) (a : Nat) : Memory.read (Memory.erase m a) a = unlistedByte := by
  induction m with
  | nil => rfl
  | cons c m ih =>
    by_cases h : c.1 = a
    · simp [Memory.erase, h, ih]
    · simp [Memory.erase, Memory.read, h, ih]

theorem Memory.read_erase_other (m : Memory) {a b : Nat} (hne : b ≠ a) :
    Memory.read (Memory.erase m a) b = Memory.read m b := by
  induction m with
  | nil => rfl
  | cons c m ih =>
    by_cases h : c.1 = a
    · have : c.1 ≠ b := fun hb => hne (hb ▸ h)
      simp [Memory.erase, Memory.read, h, ih, h ▸ this]
    · simp [Memory.erase, Memory.read, h, ih]

theorem Memory.read_insert_other (m : Memory) {a b : Nat} (v : Byte) (hne : b ≠ a) :
    Memory.read (Memory.insert a v m) b = Memory.read m b := by
  induction m with
  | nil => simp [Memory.insert, Memory.read, hne.symm]
  | cons c m ih =>
    by_cases h : a < c.1
    · simp [Memory.insert, Memory.read, h, hne.symm]
    · simp [Memory.insert, Memory.read, h, ih]

theorem Memory.read_insert_same (m : Memory) (a : Nat) (v : Byte) (hfree : ∀ c ∈ m, c.1 ≠ a) :
    Memory.read (Memory.insert a v m) a = v := by
  induction m with
  | nil => simp [Memory.insert, Memory.read]
  | cons c m ih =>
    have hc : c.1 ≠ a := hfree c (by simp)
    by_cases h : a < c.1
    · simp [Memory.insert, Memory.read, h]
    · simp [Memory.insert, Memory.read, h, hc, ih fun d hd => hfree d (by simp [hd])]

theorem Memory.erase_free (m : Memory) (a : Nat) : ∀ c ∈ Memory.erase m a, c.1 ≠ a := by
  induction m with
  | nil => simp [Memory.erase]
  | cons c m ih =>
    intro d hd
    by_cases h : c.1 = a
    · exact ih d (by simpa [Memory.erase, h] using hd)
    · rcases List.mem_cons.mp (by simpa only [Memory.erase, h, if_false] using hd) with rfl | hd
      · exact h
      · exact ih d hd

theorem Memory.read_write_same (m : Memory) (a : Nat) (v : Byte) : Memory.read (Memory.write m a v) a = v := by
  unfold Memory.write
  split
  · next h => rw [Memory.read_erase_same, h]
  · exact Memory.read_insert_same _ _ _ (Memory.erase_free m a)

theorem Memory.read_write_other (m : Memory) {a b : Nat} (v : Byte) (hne : b ≠ a) :
    Memory.read (Memory.write m a v) b = Memory.read m b := by
  unfold Memory.write
  split
  · exact Memory.read_erase_other m hne
  · rw [Memory.read_insert_other _ v hne, Memory.read_erase_other m hne]

theorem Memory.read_write (m : Memory) (a b : Nat) (v : Byte) :
    Memory.read (Memory.write m a v) b = if b = a then v else Memory.read m b := by
  split
  · next h => rw [h, Memory.read_write_same]
  · next h => exact Memory.read_write_other m v h

/-! ### The canonical form -/

theorem Memory.wfFrom_cons {n k : Nat} {v : Byte} {m : Memory} :
    Memory.wfFrom n ((k, v) :: m) = true ↔ n ≤ k ∧ k < 65536 ∧ v ≠ unlistedByte ∧ Memory.wfFrom (k + 1) m = true := by
  simp [Memory.wfFrom, and_assoc]

theorem Memory.wfFrom_mono {n n' : Nat} {m : Memory} (hle : n' ≤ n) (h : Memory.wfFrom n m = true) :
    Memory.wfFrom n' m = true := by
  cases m with
  | nil => rfl
  | cons c m =>
    rw [Memory.wfFrom_cons] at h ⊢
    exact ⟨by omega, h.2⟩

theorem Memory.wfFrom_erase {n : Nat} {m : Memory} (a : Nat) (h : Memory.wfFrom n m = true) :
    Memory.wfFrom n (Memory.erase m a) = true := by
  induction m generalizing n with
  | nil => exact h
  | cons c m ih =>
    have hc := Memory.wfFrom_cons.mp h
    by_cases hk : c.1 = a
    · simpa [Memory.erase, hk] using Memory.wfFrom_mono (by omega) (ih hc.2.2.2)
    · simpa [Memory.erase, hk] using Memory.wfFrom_cons.mpr ⟨hc.1, hc.2.1, hc.2.2.1, ih hc.2.2.2⟩

theorem Memory.wfFrom_insert {n a : Nat} {v : Byte} {m : Memory} (hn : n ≤ a) (ha : a < 65536)
    (hv : v ≠ unlistedByte) (hfree : ∀ c ∈ m, c.1 ≠ a) (h : Memory.wfFrom n m = true) :
    Memory.wfFrom n (Memory.insert a v m) = true := by
  induction m generalizing n with
  | nil => simp [Memory.insert, Memory.wfFrom, hn, ha, hv]
  | cons c m ih =>
    have hc := Memory.wfFrom_cons.mp h
    have hne : c.1 ≠ a := hfree c (by simp)
    by_cases hlt : a < c.1
    · have htail : Memory.wfFrom (a + 1) (c :: m) = true := Memory.wfFrom_cons.mpr ⟨by omega, hc.2⟩
      simpa [Memory.insert, hlt] using Memory.wfFrom_cons.mpr ⟨hn, ha, hv, htail⟩
    · have htail := ih (by omega) (fun d hd => hfree d (by simp [hd])) hc.2.2.2
      simpa [Memory.insert, hlt] using Memory.wfFrom_cons.mpr ⟨hc.1, hc.2.1, hc.2.2.1, htail⟩

/-- Every write keeps the canonical form. -/
theorem Memory.wf_write {m : Memory} {a : Nat} (v : Byte) (ha : a < 65536) (h : Memory.wf m = true) :
    Memory.wf (Memory.write m a v) = true := by
  unfold Memory.write
  split
  · exact Memory.wfFrom_erase a h
  · next hv => exact Memory.wfFrom_insert (Nat.zero_le a) ha hv (Memory.erase_free m a) (Memory.wfFrom_erase a h)

/-- The memory of the reset state has the canonical form. -/
theorem Memory.wf_reset : Memory.wf State.reset.mem = true := rfl

end Sys2Proof.Machine
end

