-- ==== Sys2Proof/Laws/State.lean ====
section
/-! SUPPORT. One lemma per field of the state and per update: what the update does to the field. -/

namespace Sys2Proof.Machine

variable (s : State)

/-! ### Registers -/

@[simp] theorem State.a_setReg_A (v : Byte) : (s.setReg .A v).a = v := rfl
@[simp] theorem State.x_setReg_A (v : Byte) : (s.setReg .A v).x = s.x := rfl
@[simp] theorem State.y_setReg_A (v : Byte) : (s.setReg .A v).y = s.y := rfl
@[simp] theorem State.sp_setReg_A (v : Byte) : (s.setReg .A v).sp = s.sp := rfl
@[simp] theorem State.p_setReg_A (v : Byte) : (s.setReg .A v).p = s.p := rfl
@[simp] theorem State.a_setReg_X (v : Byte) : (s.setReg .X v).a = s.a := rfl
@[simp] theorem State.x_setReg_X (v : Byte) : (s.setReg .X v).x = v := rfl
@[simp] theorem State.y_setReg_X (v : Byte) : (s.setReg .X v).y = s.y := rfl
@[simp] theorem State.sp_setReg_X (v : Byte) : (s.setReg .X v).sp = s.sp := rfl
@[simp] theorem State.p_setReg_X (v : Byte) : (s.setReg .X v).p = s.p := rfl
@[simp] theorem State.a_setReg_Y (v : Byte) : (s.setReg .Y v).a = s.a := rfl
@[simp] theorem State.x_setReg_Y (v : Byte) : (s.setReg .Y v).x = s.x := rfl
@[simp] theorem State.y_setReg_Y (v : Byte) : (s.setReg .Y v).y = v := rfl
@[simp] theorem State.sp_setReg_Y (v : Byte) : (s.setReg .Y v).sp = s.sp := rfl
@[simp] theorem State.p_setReg_Y (v : Byte) : (s.setReg .Y v).p = s.p := rfl
@[simp] theorem State.a_setReg_SP (v : Byte) : (s.setReg .SP v).a = s.a := rfl
@[simp] theorem State.x_setReg_SP (v : Byte) : (s.setReg .SP v).x = s.x := rfl
@[simp] theorem State.y_setReg_SP (v : Byte) : (s.setReg .SP v).y = s.y := rfl
@[simp] theorem State.sp_setReg_SP (v : Byte) : (s.setReg .SP v).sp = v := rfl
@[simp] theorem State.p_setReg_SP (v : Byte) : (s.setReg .SP v).p = s.p := rfl
@[simp] theorem State.a_setReg_P (v : Byte) : (s.setReg .P v).a = s.a := rfl
@[simp] theorem State.x_setReg_P (v : Byte) : (s.setReg .P v).x = s.x := rfl
@[simp] theorem State.y_setReg_P (v : Byte) : (s.setReg .P v).y = s.y := rfl
@[simp] theorem State.sp_setReg_P (v : Byte) : (s.setReg .P v).sp = s.sp := rfl
@[simp] theorem State.p_setReg_P (v : Byte) : (s.setReg .P v).p = v := rfl

@[simp] theorem State.pc_setReg (r : Reg) (v : Byte) : (s.setReg r v).pc = s.pc := by cases r <;> rfl
@[simp] theorem State.cyc_setReg (r : Reg) (v : Byte) : (s.setReg r v).cyc = s.cyc := by cases r <;> rfl
@[simp] theorem State.mem_setReg (r : Reg) (v : Byte) : (s.setReg r v).mem = s.mem := by cases r <;> rfl
@[simp] theorem State.running_setReg (r : Reg) (v : Byte) : (s.setReg r v).running = s.running := by cases r <;> rfl
@[simp] theorem State.haltRequested_setReg (r : Reg) (v : Byte) : (s.setReg r v).haltRequested = s.haltRequested := by cases r <;> rfl
@[simp] theorem State.run_setReg (r : Reg) (v : Byte) : (s.setReg r v).run = s.run := by cases r <;> rfl
@[simp] theorem State.result_setReg (r : Reg) (v : Byte) : (s.setReg r v).result = s.result := by cases r <;> rfl
@[simp] theorem State.freeCtr_setReg (r : Reg) (v : Byte) : (s.setReg r v).freeCtr = s.freeCtr := by cases r <;> rfl

/-! ### setPC -/

@[simp] theorem State.a_setPC (t : Addr) : (s.setPC t).a = s.a := rfl
@[simp] theorem State.x_setPC (t : Addr) : (s.setPC t).x = s.x := rfl
@[simp] theorem State.y_setPC (t : Addr) : (s.setPC t).y = s.y := rfl
@[simp] theorem State.sp_setPC (t : Addr) : (s.setPC t).sp = s.sp := rfl
@[simp] theorem State.p_setPC (t : Addr) : (s.setPC t).p = s.p := rfl
@[simp] theorem State.pc_setPC (t : Addr) : (s.setPC t).pc = t := rfl
@[simp] theorem State.cyc_setPC (t : Addr) : (s.setPC t).cyc = s.cyc := rfl
@[simp] theorem State.mem_setPC (t : Addr) : (s.setPC t).mem = s.mem := rfl
@[simp] theorem State.running_setPC (t : Addr) : (s.setPC t).running = s.running := rfl
@[simp] theorem State.haltRequested_setPC (t : Addr) : (s.setPC t).haltRequested = s.haltRequested := rfl
@[simp] theorem State.run_setPC (t : Addr) : (s.setPC t).run = s.run := rfl
@[simp] theorem State.result_setPC (t : Addr) : (s.setPC t).result = s.result := rfl
@[simp] theorem State.freeCtr_setPC (t : Addr) : (s.setPC t).freeCtr = s.freeCtr := rfl

/-! ### write -/

@[simp] theorem State.a_write (addr : Addr) (v : Byte) : (s.write addr v).a = s.a := rfl
@[simp] theorem State.x_write (addr : Addr) (v : Byte) : (s.write addr v).x = s.x := rfl
@[simp] theorem State.y_write (addr : Addr) (v : Byte) : (s.write addr v).y = s.y := rfl
@[simp] theorem State.sp_write (addr : Addr) (v : Byte) : (s.write addr v).sp = s.sp := rfl
@[simp] theorem State.p_write (addr : Addr) (v : Byte) : (s.write addr v).p = s.p := rfl
@[simp] theorem State.pc_write (addr : Addr) (v : Byte) : (s.write addr v).pc = s.pc := rfl
@[simp] theorem State.cyc_write (addr : Addr) (v : Byte) : (s.write addr v).cyc = s.cyc := rfl
@[simp] theorem State.mem_write (addr : Addr) (v : Byte) : (s.write addr v).mem = Memory.write s.mem addr.toNat v := rfl
@[simp] theorem State.running_write (addr : Addr) (v : Byte) : (s.write addr v).running = s.running := rfl
@[simp] theorem State.haltRequested_write (addr : Addr) (v : Byte) : (s.write addr v).haltRequested = s.haltRequested := rfl
@[simp] theorem State.run_write (addr : Addr) (v : Byte) : (s.write addr v).run = s.run := rfl
@[simp] theorem State.result_write (addr : Addr) (v : Byte) : (s.write addr v).result = s.result := rfl
@[simp] theorem State.freeCtr_write (addr : Addr) (v : Byte) : (s.write addr v).freeCtr = s.freeCtr := rfl

/-! ### setFlag -/

@[simp] theorem State.a_setFlag (f : Flag) (b : Bool) : (s.setFlag f b).a = s.a := rfl
@[simp] theorem State.x_setFlag (f : Flag) (b : Bool) : (s.setFlag f b).x = s.x := rfl
@[simp] theorem State.y_setFlag (f : Flag) (b : Bool) : (s.setFlag f b).y = s.y := rfl
@[simp] theorem State.sp_setFlag (f : Flag) (b : Bool) : (s.setFlag f b).sp = s.sp := rfl
@[simp] theorem State.p_setFlag (f : Flag) (b : Bool) : (s.setFlag f b).p = Machine.setFlag s.p f b := rfl
@[simp] theorem State.pc_setFlag (f : Flag) (b : Bool) : (s.setFlag f b).pc = s.pc := rfl
@[simp] theorem State.cyc_setFlag (f : Flag) (b : Bool) : (s.setFlag f b).cyc = s.cyc := rfl
@[simp] theorem State.mem_setFlag (f : Flag) (b : Bool) : (s.setFlag f b).mem = s.mem := rfl
@[simp] theorem State.running_setFlag (f : Flag) (b : Bool) : (s.setFlag f b).running = s.running := rfl
@[simp] theorem State.haltRequested_setFlag (f : Flag) (b : Bool) : (s.setFlag f b).haltRequested = s.haltRequested := rfl
@[simp] theorem State.run_setFlag (f : Flag) (b : Bool) : (s.setFlag f b).run = s.run := rfl
@[simp] theorem State.result_setFlag (f : Flag) (b : Bool) : (s.setFlag f b).result = s.result := rfl
@[simp] theorem State.freeCtr_setFlag (f : Flag) (b : Bool) : (s.setFlag f b).freeCtr = s.freeCtr := rfl

/-! ### setZN -/

@[simp] theorem State.a_setZN (v : Byte) : (s.setZN v).a = s.a := rfl
@[simp] theorem State.x_setZN (v : Byte) : (s.setZN v).x = s.x := rfl
@[simp] theorem State.y_setZN (v : Byte) : (s.setZN v).y = s.y := rfl
@[simp] theorem State.sp_setZN (v : Byte) : (s.setZN v).sp = s.sp := rfl
@[simp] theorem State.p_setZN (v : Byte) : (s.setZN v).p = Machine.setZN s.p v := rfl
@[simp] theorem State.pc_setZN (v : Byte) : (s.setZN v).pc = s.pc := rfl
@[simp] theorem State.cyc_setZN (v : Byte) : (s.setZN v).cyc = s.cyc := rfl
@[simp] theorem State.mem_setZN (v : Byte) : (s.setZN v).mem = s.mem := rfl
@[simp] theorem State.running_setZN (v : Byte) : (s.setZN v).running = s.running := rfl
@[simp] theorem State.haltRequested_setZN (v : Byte) : (s.setZN v).haltRequested = s.haltRequested := rfl
@[simp] theorem State.run_setZN (v : Byte) : (s.setZN v).run = s.run := rfl
@[simp] theorem State.result_setZN (v : Byte) : (s.setZN v).result = s.result := rfl
@[simp] theorem State.freeCtr_setZN (v : Byte) : (s.setZN v).freeCtr = s.freeCtr := rfl

/-! ### drawn -/

@[simp] theorem State.a_drawn (n : Nat) : (s.drawn n).a = s.a := rfl
@[simp] theorem State.x_drawn (n : Nat) : (s.drawn n).x = s.x := rfl
@[simp] theorem State.y_drawn (n : Nat) : (s.drawn n).y = s.y := rfl
@[simp] theorem State.sp_drawn (n : Nat) : (s.drawn n).sp = s.sp := rfl
@[simp] theorem State.p_drawn (n : Nat) : (s.drawn n).p = s.p := rfl
@[simp] theorem State.pc_drawn (n : Nat) : (s.drawn n).pc = s.pc := rfl
@[simp] theorem State.cyc_drawn (n : Nat) : (s.drawn n).cyc = s.cyc := rfl
@[simp] theorem State.mem_drawn (n : Nat) : (s.drawn n).mem = s.mem := rfl
@[simp] theorem State.running_drawn (n : Nat) : (s.drawn n).running = s.running := rfl
@[simp] theorem State.haltRequested_drawn (n : Nat) : (s.drawn n).haltRequested = s.haltRequested := rfl
@[simp] theorem State.run_drawn (n : Nat) : (s.drawn n).run = s.run := rfl
@[simp] theorem State.result_drawn (n : Nat) : (s.drawn n).result = s.result := rfl
@[simp] theorem State.freeCtr_drawn (n : Nat) : (s.drawn n).freeCtr = s.freeCtr + n := rfl

/-! ### retire -/

@[simp] theorem State.a_retire (n : Nat) (b : Bool) : (s.retire n b).a = s.a := rfl
@[simp] theorem State.x_retire (n : Nat) (b : Bool) : (s.retire n b).x = s.x := rfl
@[simp] theorem State.y_retire (n : Nat) (b : Bool) : (s.retire n b).y = s.y := rfl
@[simp] theorem State.sp_retire (n : Nat) (b : Bool) : (s.retire n b).sp = s.sp := rfl
@[simp] theorem State.p_retire (n : Nat) (b : Bool) : (s.retire n b).p = s.p := rfl
@[simp] theorem State.pc_retire (n : Nat) (b : Bool) : (s.retire n b).pc = s.pc := rfl
@[simp] theorem State.cyc_retire (n : Nat) (b : Bool) : (s.retire n b).cyc = s.cyc + n := rfl
@[simp] theorem State.mem_retire (n : Nat) (b : Bool) : (s.retire n b).mem = s.mem := rfl
@[simp] theorem State.running_retire (n : Nat) (b : Bool) : (s.retire n b).running = s.running := rfl
@[simp] theorem State.haltRequested_retire (n : Nat) (b : Bool) : (s.retire n b).haltRequested = s.haltRequested := rfl
@[simp] theorem State.run_retire (n : Nat) (b : Bool) : (s.retire n b).run = s.run := rfl
@[simp] theorem State.result_retire (n : Nat) (b : Bool) : (s.retire n b).result = ⟨n, b⟩ := rfl
@[simp] theorem State.freeCtr_retire (n : Nat) (b : Bool) : (s.retire n b).freeCtr = s.freeCtr := rfl

/-! ### stopRun -/

@[simp] theorem State.a_stopRun : (s.stopRun).a = s.a := rfl
@[simp] theorem State.x_stopRun : (s.stopRun).x = s.x := rfl
@[simp] theorem State.y_stopRun : (s.stopRun).y = s.y := rfl
@[simp] theorem State.sp_stopRun : (s.stopRun).sp = s.sp := rfl
@[simp] theorem State.p_stopRun : (s.stopRun).p = s.p := rfl
@[simp] theorem State.pc_stopRun : (s.stopRun).pc = s.pc := rfl
@[simp] theorem State.cyc_stopRun : (s.stopRun).cyc = s.cyc := rfl
@[simp] theorem State.mem_stopRun : (s.stopRun).mem = s.mem := rfl
@[simp] theorem State.running_stopRun : (s.stopRun).running = false := rfl
@[simp] theorem State.haltRequested_stopRun : (s.stopRun).haltRequested = s.haltRequested := rfl
@[simp] theorem State.run_stopRun : (s.stopRun).run = none := rfl
@[simp] theorem State.result_stopRun : (s.stopRun).result = s.result := rfl
@[simp] theorem State.freeCtr_stopRun : (s.stopRun).freeCtr = s.freeCtr := rfl

/-! ### setRun -/

@[simp] theorem State.a_setRun (r : RunProgress) : (s.setRun r).a = s.a := rfl
@[simp] theorem State.x_setRun (r : RunProgress) : (s.setRun r).x = s.x := rfl
@[simp] theorem State.y_setRun (r : RunProgress) : (s.setRun r).y = s.y := rfl
@[simp] theorem State.sp_setRun (r : RunProgress) : (s.setRun r).sp = s.sp := rfl
@[simp] theorem State.p_setRun (r : RunProgress) : (s.setRun r).p = s.p := rfl
@[simp] theorem State.pc_setRun (r : RunProgress) : (s.setRun r).pc = s.pc := rfl
@[simp] theorem State.cyc_setRun (r : RunProgress) : (s.setRun r).cyc = s.cyc := rfl
@[simp] theorem State.mem_setRun (r : RunProgress) : (s.setRun r).mem = s.mem := rfl
@[simp] theorem State.running_setRun (r : RunProgress) : (s.setRun r).running = s.running := rfl
@[simp] theorem State.haltRequested_setRun (r : RunProgress) : (s.setRun r).haltRequested = s.haltRequested := rfl
@[simp] theorem State.run_setRun (r : RunProgress) : (s.setRun r).run = some r := rfl
@[simp] theorem State.result_setRun (r : RunProgress) : (s.setRun r).result = s.result := rfl
@[simp] theorem State.freeCtr_setRun (r : RunProgress) : (s.setRun r).freeCtr = s.freeCtr := rfl

/-! ### The accessors -/

@[simp] theorem State.reg_A : s.reg .A = s.a := rfl
@[simp] theorem State.reg_X : s.reg .X = s.x := rfl
@[simp] theorem State.reg_Y : s.reg .Y = s.y := rfl
@[simp] theorem State.reg_SP : s.reg .SP = s.sp := rfl
@[simp] theorem State.reg_P : s.reg .P = s.p := rfl

/-- A register reads back what was written and every other register is left (R12). -/
theorem State.reg_setReg (r q : Reg) (v : Byte) : (s.setReg r v).reg q = if q = r then v else s.reg q := by
  cases r <;> cases q <;> rfl

end Sys2Proof.Machine
end

