-- ==== Sys2Proof/Laws/Ops.lean ====
section
/-! SUPPORT. What every shared operation does, said once: memory access, flags, the stack, the trap entry
and the return from it, the end of a step. -/

namespace Sys2Proof.Machine

variable (s : State)

/-! ### Memory access -/

/-- A byte written is read back and every other byte is left (R53, R57). -/
theorem State.read_write (a b : Addr) (v : Byte) : (s.write a v).read b = if b = a then v else s.read b := by
  simp only [State.read, State.mem_write, Memory.read_write, BitVec.toNat_inj]

@[simp] theorem State.read_write_same (a : Addr) (v : Byte) : (s.write a v).read a = v := by
  rw [State.read_write, if_pos rfl]

theorem State.read_write_other {a b : Addr} (v : Byte) (h : b ≠ a) : (s.write a v).read b = s.read b := by
  rw [State.read_write, if_neg h]

@[simp] theorem State.read_setReg (r : Reg) (v : Byte) (a : Addr) : (s.setReg r v).read a = s.read a := by
  simp only [State.read, State.mem_setReg]

@[simp] theorem State.read_setPC (t : Addr) (a : Addr) : (s.setPC t).read a = s.read a := rfl
@[simp] theorem State.read_setFlag (f : Flag) (b : Bool) (a : Addr) : (s.setFlag f b).read a = s.read a := rfl
@[simp] theorem State.read_setZN (v : Byte) (a : Addr) : (s.setZN v).read a = s.read a := rfl
@[simp] theorem State.read_drawn (n : Nat) (a : Addr) : (s.drawn n).read a = s.read a := rfl
@[simp] theorem State.read_retire (n : Nat) (b : Bool) (a : Addr) : (s.retire n b).read a = s.read a := rfl
@[simp] theorem State.read_stopRun (a : Addr) : (s.stopRun).read a = s.read a := rfl
@[simp] theorem State.read_setRun (r : RunProgress) (a : Addr) : (s.setRun r).read a = s.read a := rfl

/-- Every write keeps the canonical form. -/
theorem State.wf_write (a : Addr) (v : Byte) (h : Memory.wf s.mem = true) : Memory.wf (s.write a v).mem = true :=
  Memory.wf_write v a.isLt h

/-! ### Flags -/

theorem State.flag_setFlag (f g : Flag) (b : Bool) : (s.setFlag f b).flag g = if g = f then b else s.flag g := by
  simp only [State.flag, State.p_setFlag, getFlag_setFlag]

theorem State.flag_setZN (v : Byte) (f : Flag) :
    (s.setZN v).flag f = if f = .N then v.msb else if f = .Z then v == 0 else s.flag f := by
  simp only [State.flag, State.p_setZN, getFlag_setZN]

@[simp] theorem State.flag_setReg_P (v : Byte) (f : Flag) : (s.setReg .P v).flag f = getFlag v f := rfl

theorem State.flag_setReg {r : Reg} (v : Byte) (f : Flag) (h : r ≠ .P) : (s.setReg r v).flag f = s.flag f := by
  cases r <;> first | rfl | exact absurd rfl h

@[simp] theorem State.flag_setPC (t : Addr) (f : Flag) : (s.setPC t).flag f = s.flag f := rfl
@[simp] theorem State.flag_write (addr : Addr) (v : Byte) (f : Flag) : (s.write addr v).flag f = s.flag f := rfl
@[simp] theorem State.flag_drawn (n : Nat) (f : Flag) : (s.drawn n).flag f = s.flag f := rfl
@[simp] theorem State.flag_retire (n : Nat) (b : Bool) (f : Flag) : (s.retire n b).flag f = s.flag f := rfl

/-! ### Registers -/

@[simp] theorem State.reg_setPC (t : Addr) (r : Reg) : (s.setPC t).reg r = s.reg r := by cases r <;> rfl
@[simp] theorem State.reg_write (addr : Addr) (v : Byte) (r : Reg) : (s.write addr v).reg r = s.reg r := by cases r <;> rfl
@[simp] theorem State.reg_drawn (n : Nat) (r : Reg) : (s.drawn n).reg r = s.reg r := by cases r <;> rfl
@[simp] theorem State.reg_retire (n : Nat) (b : Bool) (r : Reg) : (s.retire n b).reg r = s.reg r := by cases r <;> rfl

theorem State.reg_setFlag (f : Flag) (b : Bool) {r : Reg} (h : r ≠ .P) : (s.setFlag f b).reg r = s.reg r := by
  cases r <;> first | rfl | exact absurd rfl h

theorem State.reg_setZN (v : Byte) {r : Reg} (h : r ≠ .P) : (s.setZN v).reg r = s.reg r := by
  cases r <;> first | rfl | exact absurd rfl h

/-! ### The stack -/

theorem toNat_stackAddr (sp : Byte) : (stackAddr sp).toNat = 256 + sp.toNat := by
  have := sp.isLt
  have h : BitVec.toNat (0x0100 : Addr) = 256 := rfl
  simp only [stackAddr, BitVec.toNat_add, BitVec.toNat_setWidth, h]
  omega

/-- Two offsets designate the same stack location only if they are the same. -/
@[simp] theorem stackAddr_inj {a b : Byte} : stackAddr a = stackAddr b ↔ a = b := by
  constructor
  · intro h
    have := congrArg BitVec.toNat h
    rw [toNat_stackAddr, toNat_stackAddr] at this
    exact BitVec.eq_of_toNat_eq (by omega)
  · rintro rfl
    rfl

/-- The stack lies in page 1 (R22, R58). -/
theorem hi_stackAddr (sp : Byte) : hi (stackAddr sp) = 0x01 := by
  apply BitVec.eq_of_toNat_eq
  have := sp.isLt
  have h : BitVec.toNat (0x01 : Byte) = 1 := rfl
  rw [toNat_hi, toNat_stackAddr, h]
  omega

@[simp] theorem State.a_push (v : Byte) : (s.push v).a = s.a := rfl
@[simp] theorem State.x_push (v : Byte) : (s.push v).x = s.x := rfl
@[simp] theorem State.y_push (v : Byte) : (s.push v).y = s.y := rfl
@[simp] theorem State.p_push (v : Byte) : (s.push v).p = s.p := rfl
@[simp] theorem State.pc_push (v : Byte) : (s.push v).pc = s.pc := rfl
@[simp] theorem State.cyc_push (v : Byte) : (s.push v).cyc = s.cyc := rfl
@[simp] theorem State.running_push (v : Byte) : (s.push v).running = s.running := rfl
@[simp] theorem State.haltRequested_push (v : Byte) : (s.push v).haltRequested = s.haltRequested := rfl
@[simp] theorem State.run_push (v : Byte) : (s.push v).run = s.run := rfl
@[simp] theorem State.result_push (v : Byte) : (s.push v).result = s.result := rfl
@[simp] theorem State.freeCtr_push (v : Byte) : (s.push v).freeCtr = s.freeCtr := rfl
@[simp] theorem State.sp_push (v : Byte) : (s.push v).sp = s.sp - 1 := rfl
@[simp] theorem State.flag_push (v : Byte) (f : Flag) : (s.push v).flag f = s.flag f := rfl

/-- A push writes the location at the old SP and nothing else (R60). -/
theorem State.read_push (v : Byte) (a : Addr) : (s.push v).read a = if a = stackAddr s.sp then v else s.read a := by
  simp only [State.push, State.read_setReg, State.read_write]

theorem State.wf_push (v : Byte) (h : Memory.wf s.mem = true) : Memory.wf (s.push v).mem = true :=
  s.wf_write _ v h

@[simp] theorem State.a_pushWord (w : Addr) : (s.pushWord w).a = s.a := rfl
@[simp] theorem State.x_pushWord (w : Addr) : (s.pushWord w).x = s.x := rfl
@[simp] theorem State.y_pushWord (w : Addr) : (s.pushWord w).y = s.y := rfl
@[simp] theorem State.p_pushWord (w : Addr) : (s.pushWord w).p = s.p := rfl
@[simp] theorem State.pc_pushWord (w : Addr) : (s.pushWord w).pc = s.pc := rfl
@[simp] theorem State.cyc_pushWord (w : Addr) : (s.pushWord w).cyc = s.cyc := rfl
@[simp] theorem State.running_pushWord (w : Addr) : (s.pushWord w).running = s.running := rfl
@[simp] theorem State.haltRequested_pushWord (w : Addr) : (s.pushWord w).haltRequested = s.haltRequested := rfl
@[simp] theorem State.run_pushWord (w : Addr) : (s.pushWord w).run = s.run := rfl
@[simp] theorem State.result_pushWord (w : Addr) : (s.pushWord w).result = s.result := rfl
@[simp] theorem State.freeCtr_pushWord (w : Addr) : (s.pushWord w).freeCtr = s.freeCtr := rfl
@[simp] theorem State.sp_pushWord (w : Addr) : (s.pushWord w).sp = s.sp - 1 - 1 := rfl
@[simp] theorem State.flag_pushWord (w : Addr) (f : Flag) : (s.pushWord w).flag f = s.flag f := rfl

/-- A two-byte push writes the high byte at the old SP and the low byte below it (R54). -/
theorem State.read_pushWord (w : Addr) (a : Addr) :
    (s.pushWord w).read a =
      if a = stackAddr (s.sp - 1) then lo w else if a = stackAddr s.sp then hi w else s.read a := by
  simp only [State.pushWord, State.read_push, State.sp_push]

theorem State.wf_pushWord (w : Addr) (h : Memory.wf s.mem = true) : Memory.wf (s.pushWord w).mem = true :=
  State.wf_push _ _ (s.wf_push _ h)

@[simp] theorem State.a_popped : s.popped.a = s.a := rfl
@[simp] theorem State.x_popped : s.popped.x = s.x := rfl
@[simp] theorem State.y_popped : s.popped.y = s.y := rfl
@[simp] theorem State.p_popped : s.popped.p = s.p := rfl
@[simp] theorem State.pc_popped : s.popped.pc = s.pc := rfl
@[simp] theorem State.cyc_popped : s.popped.cyc = s.cyc := rfl
@[simp] theorem State.running_popped : s.popped.running = s.running := rfl
@[simp] theorem State.haltRequested_popped : s.popped.haltRequested = s.haltRequested := rfl
@[simp] theorem State.run_popped : s.popped.run = s.run := rfl
@[simp] theorem State.result_popped : s.popped.result = s.result := rfl
@[simp] theorem State.freeCtr_popped : s.popped.freeCtr = s.freeCtr := rfl
@[simp] theorem State.mem_popped : s.popped.mem = s.mem := rfl
@[simp] theorem State.sp_popped : s.popped.sp = s.sp + 1 := rfl
@[simp] theorem State.flag_popped (f : Flag) : s.popped.flag f = s.flag f := rfl
@[simp] theorem State.read_popped (a : Addr) : s.popped.read a = s.read a := rfl

@[simp] theorem State.a_poppedWord : s.poppedWord.a = s.a := rfl
@[simp] theorem State.x_poppedWord : s.poppedWord.x = s.x := rfl
@[simp] theorem State.y_poppedWord : s.poppedWord.y = s.y := rfl
@[simp] theorem State.p_poppedWord : s.poppedWord.p = s.p := rfl
@[simp] theorem State.pc_poppedWord : s.poppedWord.pc = s.pc := rfl
@[simp] theorem State.cyc_poppedWord : s.poppedWord.cyc = s.cyc := rfl
@[simp] theorem State.running_poppedWord : s.poppedWord.running = s.running := rfl
@[simp] theorem State.haltRequested_poppedWord : s.poppedWord.haltRequested = s.haltRequested := rfl
@[simp] theorem State.run_poppedWord : s.poppedWord.run = s.run := rfl
@[simp] theorem State.result_poppedWord : s.poppedWord.result = s.result := rfl
@[simp] theorem State.freeCtr_poppedWord : s.poppedWord.freeCtr = s.freeCtr := rfl
@[simp] theorem State.mem_poppedWord : s.poppedWord.mem = s.mem := rfl
@[simp] theorem State.sp_poppedWord : s.poppedWord.sp = s.sp + 1 + 1 := rfl
@[simp] theorem State.flag_poppedWord (f : Flag) : s.poppedWord.flag f = s.flag f := rfl
@[simp] theorem State.read_poppedWord (a : Addr) : s.poppedWord.read a = s.read a := rfl

theorem State.pulled_eq : s.pulled = s.read (stackAddr (s.sp + 1)) := rfl

theorem State.pulledWord_eq :
    s.pulledWord = word (s.read (stackAddr (s.sp + 1 + 1))) (s.read (stackAddr (s.sp + 1))) := rfl

/-! ### The trap entry and the return (R220, R221) -/

@[simp] theorem State.a_takeBreak (ret : Addr) : (s.takeBreak ret).a = s.a := by simp [State.takeBreak]
@[simp] theorem State.x_takeBreak (ret : Addr) : (s.takeBreak ret).x = s.x := by simp [State.takeBreak]
@[simp] theorem State.y_takeBreak (ret : Addr) : (s.takeBreak ret).y = s.y := by simp [State.takeBreak]
@[simp] theorem State.cyc_takeBreak (ret : Addr) : (s.takeBreak ret).cyc = s.cyc := by simp [State.takeBreak]
@[simp] theorem State.running_takeBreak (ret : Addr) : (s.takeBreak ret).running = s.running := by simp [State.takeBreak]
@[simp] theorem State.haltRequested_takeBreak (ret : Addr) : (s.takeBreak ret).haltRequested = s.haltRequested := by simp [State.takeBreak]
@[simp] theorem State.run_takeBreak (ret : Addr) : (s.takeBreak ret).run = s.run := by simp [State.takeBreak]
@[simp] theorem State.result_takeBreak (ret : Addr) : (s.takeBreak ret).result = s.result := by simp [State.takeBreak]
@[simp] theorem State.freeCtr_takeBreak (ret : Addr) : (s.takeBreak ret).freeCtr = s.freeCtr := by simp [State.takeBreak]
@[simp] theorem State.sp_takeBreak (ret : Addr) : (s.takeBreak ret).sp = s.sp - 1 - 1 - 1 := by simp [State.takeBreak]

/-- I is set and no other flag changes. -/
theorem State.flag_takeBreak (ret : Addr) (f : Flag) : (s.takeBreak ret).flag f = if f = .I then true else s.flag f := by
  simp only [State.takeBreak, State.flag_setPC, State.flag_setFlag, State.flag_push, State.flag_pushWord]

/-- The three bytes on the stack: the return address, high byte first, then the status. -/
theorem State.read_takeBreak (ret : Addr) (a : Addr) :
    (s.takeBreak ret).read a =
      if a = stackAddr (s.sp - 1 - 1) then pushedStatus s.p
      else if a = stackAddr (s.sp - 1) then lo ret else if a = stackAddr s.sp then hi ret else s.read a := by
  simp only [State.takeBreak, State.read_setPC, State.read_setFlag, State.read_push, State.sp_pushWord, State.read_pushWord]

/-- The vector is read after the pushes, which cannot reach it (R68). -/
theorem State.pc_takeBreak (ret : Addr) : (s.takeBreak ret).pc = s.readWord Config.irqVector := by
  have h : ∀ sp : Byte, ∀ a : Addr, 512 ≤ a.toNat → a ≠ stackAddr sp := by
    intro sp a ha h
    have := sp.isLt
    have := toNat_stackAddr sp
    rw [← h] at this
    omega
  have h1 : 512 ≤ Config.irqVector.toNat := by decide
  have h2 : 512 ≤ (Config.irqVector + 1).toNat := by decide
  simp only [State.takeBreak, State.pc_setPC, State.readWord, State.read_setFlag, State.read_push, State.read_pushWord,
    h _ _ h1, h _ _ h2, if_false]

theorem State.wf_takeBreak (ret : Addr) (h : Memory.wf s.mem = true) : Memory.wf (s.takeBreak ret).mem = true :=
  State.wf_push _ _ (s.wf_pushWord _ h)

@[simp] theorem State.a_returnFromBreak : s.returnFromBreak.a = s.a := by simp [State.returnFromBreak]
@[simp] theorem State.x_returnFromBreak : s.returnFromBreak.x = s.x := by simp [State.returnFromBreak]
@[simp] theorem State.y_returnFromBreak : s.returnFromBreak.y = s.y := by simp [State.returnFromBreak]
@[simp] theorem State.cyc_returnFromBreak : s.returnFromBreak.cyc = s.cyc := by simp [State.returnFromBreak]
@[simp] theorem State.mem_returnFromBreak : s.returnFromBreak.mem = s.mem := by simp [State.returnFromBreak]
@[simp] theorem State.running_returnFromBreak : s.returnFromBreak.running = s.running := by simp [State.returnFromBreak]
@[simp] theorem State.haltRequested_returnFromBreak : s.returnFromBreak.haltRequested = s.haltRequested := by simp [State.returnFromBreak]
@[simp] theorem State.run_returnFromBreak : s.returnFromBreak.run = s.run := by simp [State.returnFromBreak]
@[simp] theorem State.result_returnFromBreak : s.returnFromBreak.result = s.result := by simp [State.returnFromBreak]
@[simp] theorem State.freeCtr_returnFromBreak : s.returnFromBreak.freeCtr = s.freeCtr := by simp [State.returnFromBreak]
@[simp] theorem State.sp_returnFromBreak : s.returnFromBreak.sp = s.sp + 1 + 1 + 1 := by simp [State.returnFromBreak]
@[simp] theorem State.p_returnFromBreak : s.returnFromBreak.p = pulledStatus s.p s.pulled := by simp [State.returnFromBreak]

theorem State.pc_returnFromBreak :
    s.returnFromBreak.pc = word (s.read (stackAddr (s.sp + 1 + 1 + 1))) (s.read (stackAddr (s.sp + 1 + 1))) := rfl

end Sys2Proof.Machine
end

