-- ==== Sys2Proof/Laws/Operands.lean ====
section
/-! SUPPORT. What the operand forms and the end of a step do. -/

namespace Sys2Proof.Machine

variable (s : State)

@[simp] theorem State.a_pastInstr (i : Instr) : (s.pastInstr i).a = s.a := rfl
@[simp] theorem State.x_pastInstr (i : Instr) : (s.pastInstr i).x = s.x := rfl
@[simp] theorem State.y_pastInstr (i : Instr) : (s.pastInstr i).y = s.y := rfl
@[simp] theorem State.sp_pastInstr (i : Instr) : (s.pastInstr i).sp = s.sp := rfl
@[simp] theorem State.p_pastInstr (i : Instr) : (s.pastInstr i).p = s.p := rfl
@[simp] theorem State.cyc_pastInstr (i : Instr) : (s.pastInstr i).cyc = s.cyc := rfl
@[simp] theorem State.mem_pastInstr (i : Instr) : (s.pastInstr i).mem = s.mem := rfl
@[simp] theorem State.running_pastInstr (i : Instr) : (s.pastInstr i).running = s.running := rfl
@[simp] theorem State.haltRequested_pastInstr (i : Instr) : (s.pastInstr i).haltRequested = s.haltRequested := rfl
@[simp] theorem State.run_pastInstr (i : Instr) : (s.pastInstr i).run = s.run := rfl
@[simp] theorem State.result_pastInstr (i : Instr) : (s.pastInstr i).result = s.result := rfl
@[simp] theorem State.freeCtr_pastInstr (i : Instr) : (s.pastInstr i).freeCtr = s.freeCtr := rfl
@[simp] theorem State.pc_pastInstr (i : Instr) : (s.pastInstr i).pc = s.pc + BitVec.ofNat 16 i.length := rfl
@[simp] theorem State.read_pastInstr (i : Instr) (a : Addr) : (s.pastInstr i).read a = s.read a := rfl
@[simp] theorem State.flag_pastInstr (i : Instr) (f : Flag) : (s.pastInstr i).flag f = s.flag f := rfl
@[simp] theorem State.reg_pastInstr (i : Instr) (r : Reg) : (s.pastInstr i).reg r = s.reg r := by cases r <;> rfl

@[simp] theorem State.a_finish (i : Instr) (n : Nat) : (s.finish i n).a = s.a := rfl
@[simp] theorem State.x_finish (i : Instr) (n : Nat) : (s.finish i n).x = s.x := rfl
@[simp] theorem State.y_finish (i : Instr) (n : Nat) : (s.finish i n).y = s.y := rfl
@[simp] theorem State.sp_finish (i : Instr) (n : Nat) : (s.finish i n).sp = s.sp := rfl
@[simp] theorem State.p_finish (i : Instr) (n : Nat) : (s.finish i n).p = s.p := rfl
@[simp] theorem State.pc_finish (i : Instr) (n : Nat) : (s.finish i n).pc = s.pc := rfl
@[simp] theorem State.mem_finish (i : Instr) (n : Nat) : (s.finish i n).mem = s.mem := rfl
@[simp] theorem State.running_finish (i : Instr) (n : Nat) : (s.finish i n).running = s.running := rfl
@[simp] theorem State.haltRequested_finish (i : Instr) (n : Nat) : (s.finish i n).haltRequested = s.haltRequested := rfl
@[simp] theorem State.run_finish (i : Instr) (n : Nat) : (s.finish i n).run = s.run := rfl
@[simp] theorem State.freeCtr_finish (i : Instr) (n : Nat) : (s.finish i n).freeCtr = s.freeCtr := rfl
@[simp] theorem State.cyc_finish (i : Instr) (n : Nat) : (s.finish i n).cyc = s.cyc + (baseCycles i + n) := rfl
@[simp] theorem State.result_finish (i : Instr) (n : Nat) : (s.finish i n).result = ⟨baseCycles i + n, isBreak i⟩ := rfl
@[simp] theorem State.read_finish (i : Instr) (n : Nat) (a : Addr) : (s.finish i n).read a = s.read a := rfl
@[simp] theorem State.flag_finish (i : Instr) (n : Nat) (f : Flag) : (s.finish i n).flag f = s.flag f := rfl
@[simp] theorem State.reg_finish (i : Instr) (n : Nat) (r : Reg) : (s.finish i n).reg r = s.reg r := by cases r <;> rfl

/-- BRK and no other instruction sets the break indicator (R33). -/
theorem isBreak_iff (i : Instr) : isBreak i = true ↔ i = .brk := by
  cases i <;> simp [isBreak]

/-- The operand of an instruction is the same before and after the program counter is advanced. -/
@[simp] theorem MemOperand_ea_pastInstr (m : MemOperand) (i : Instr) : m.ea (s.pastInstr i) = m.ea s := by
  cases m <;> rfl

/-- A load writes its register. -/
theorem State.reg_load (r q : Reg) (v : Byte) (hq : q ≠ .P) :
    (s.load r v).reg q = if q = r then v else s.reg q := by
  rw [State.load, State.reg_setZN _ _ hq, State.reg_setReg]

/-- A load sets N and Z from its value. -/
theorem State.flag_load (r : Reg) (v : Byte) (f : Flag) (hr : r ≠ .P) :
    (s.load r v).flag f = if f = .N then v.msb else if f = .Z then v == 0 else s.flag f := by
  rw [State.load, State.flag_setZN, State.flag_setReg _ _ _ hr]

@[simp] theorem State.pc_load (r : Reg) (v : Byte) : (s.load r v).pc = s.pc := by cases r <;> rfl
@[simp] theorem State.cyc_load (r : Reg) (v : Byte) : (s.load r v).cyc = s.cyc := by cases r <;> rfl
@[simp] theorem State.mem_load (r : Reg) (v : Byte) : (s.load r v).mem = s.mem := by cases r <;> rfl
@[simp] theorem State.running_load (r : Reg) (v : Byte) : (s.load r v).running = s.running := by cases r <;> rfl
@[simp] theorem State.haltRequested_load (r : Reg) (v : Byte) : (s.load r v).haltRequested = s.haltRequested := by cases r <;> rfl
@[simp] theorem State.run_load (r : Reg) (v : Byte) : (s.load r v).run = s.run := by cases r <;> rfl
@[simp] theorem State.result_load (r : Reg) (v : Byte) : (s.load r v).result = s.result := by cases r <;> rfl
@[simp] theorem State.freeCtr_load (r : Reg) (v : Byte) : (s.load r v).freeCtr = s.freeCtr := by cases r <;> rfl
@[simp] theorem State.read_load (r : Reg) (v : Byte) (a : Addr) : (s.load r v).read a = s.read a := by cases r <;> rfl

/-! ### Effective addresses -/

theorem toNat_zeroPage (b : Byte) : (zeroPage b).toNat = b.toNat := by
  have := b.isLt
  simp only [zeroPage, BitVec.toNat_setWidth]
  omega

/-- The modes without an index have their base as effective address and never cross a page. -/
theorem MemOperand_ea_eq_base (m : MemOperand) (h : m.index s = 0) : m.ea s = m.base s := by
  simp [MemOperand.ea, h]

theorem MemOperand_crossed_eq_false (m : MemOperand) (h : m.index s = 0) : m.crossed s = false := by
  simp [MemOperand.crossed, pageCrossed, MemOperand_ea_eq_base s m h]

/-- The effective address as a number. -/
theorem MemOperand_toNat_ea (m : MemOperand) : (m.ea s).toNat = ((m.base s).toNat + (m.index s).toNat) % 65536 := by
  have := (m.index s).isLt
  simp only [MemOperand.ea, BitVec.toNat_add, BitVec.toNat_setWidth]
  omega

end Sys2Proof.Machine
end

