-- ==== Sys2Proof/Laws/PerInstr.lean ====
section
/-! SUPPORT. Statements made per constructor. Family `EncodedLength`: the encoding of an instruction has as
many bytes as its mode's instruction length says (R82). -/

namespace Sys2Proof.Laws.EncodedLength

/-- If the instruction has an encoding, it is of the instruction's length (R82). -/
def Statement (i : Instr) : Prop := ∀ bs, encode i = some bs → bs.length = i.length

/-- It is enough that the operand bytes are as many as the mode asks for. -/
theorem of_operandBytes {i : Instr} (h : i.operandBytes.length + 1 = i.length) : Statement i := by
  intro bs hb
  obtain ⟨op, -, rfl⟩ := Option.map_eq_some_iff.mp hb
  simpa using h

theorem of_memOperand (m : MemOperand) : m.bytes.length + 1 = m.mode.length := by cases m <;> rfl

theorem of_readOperand (o : ReadOperand) : o.bytes.length + 1 = o.mode.length := by
  cases o with
  | imm => rfl
  | mem m => exact of_memOperand m

theorem of_shiftOperand (o : ShiftOperand) : o.bytes.length + 1 = o.mode.length := by
  cases o with
  | acc => rfl
  | mem m => exact of_memOperand m

theorem of_jumpOperand (o : JumpOperand) : o.bytes.length + 1 = o.mode.length := by cases o <;> rfl

theorem lda (o : ReadOperand) : Statement (.lda o) := of_operandBytes (of_readOperand o)
theorem ldx (o : ReadOperand) : Statement (.ldx o) := of_operandBytes (of_readOperand o)
theorem ldy (o : ReadOperand) : Statement (.ldy o) := of_operandBytes (of_readOperand o)
theorem sta (m : MemOperand) : Statement (.sta m) := of_operandBytes (of_memOperand m)
theorem stx (m : MemOperand) : Statement (.stx m) := of_operandBytes (of_memOperand m)
theorem sty (m : MemOperand) : Statement (.sty m) := of_operandBytes (of_memOperand m)
theorem tax : Statement .tax := of_operandBytes rfl
theorem tay : Statement .tay := of_operandBytes rfl
theorem txa : Statement .txa := of_operandBytes rfl
theorem tya : Statement .tya := of_operandBytes rfl
theorem tsx : Statement .tsx := of_operandBytes rfl
theorem txs : Statement .txs := of_operandBytes rfl
theorem adc (o : ReadOperand) : Statement (.adc o) := of_operandBytes (of_readOperand o)
theorem sbc (o : ReadOperand) : Statement (.sbc o) := of_operandBytes (of_readOperand o)
theorem cmp (o : ReadOperand) : Statement (.cmp o) := of_operandBytes (of_readOperand o)
theorem cpx (o : ReadOperand) : Statement (.cpx o) := of_operandBytes (of_readOperand o)
theorem cpy (o : ReadOperand) : Statement (.cpy o) := of_operandBytes (of_readOperand o)
theorem inc (m : MemOperand) : Statement (.inc m) := of_operandBytes (of_memOperand m)
theorem inx : Statement .inx := of_operandBytes rfl
theorem iny : Statement .iny := of_operandBytes rfl
theorem dec (m : MemOperand) : Statement (.dec m) := of_operandBytes (of_memOperand m)
theorem dex : Statement .dex := of_operandBytes rfl
theorem dey : Statement .dey := of_operandBytes rfl
theorem and (o : ReadOperand) : Statement (.and o) := of_operandBytes (of_readOperand o)
theorem ora (o : ReadOperand) : Statement (.ora o) := of_operandBytes (of_readOperand o)
theorem eor (o : ReadOperand) : Statement (.eor o) := of_operandBytes (of_readOperand o)
theorem bit (m : MemOperand) : Statement (.bit m) := of_operandBytes (of_memOperand m)
theorem asl (o : ShiftOperand) : Statement (.asl o) := of_operandBytes (of_shiftOperand o)
theorem lsr (o : ShiftOperand) : Statement (.lsr o) := of_operandBytes (of_shiftOperand o)
theorem rol (o : ShiftOperand) : Statement (.rol o) := of_operandBytes (of_shiftOperand o)
theorem ror (o : ShiftOperand) : Statement (.ror o) := of_operandBytes (of_shiftOperand o)
theorem jmp (o : JumpOperand) : Statement (.jmp o) := of_operandBytes (of_jumpOperand o)
theorem jsr (target : Addr) : Statement (.jsr target) := of_operandBytes rfl
theorem rts : Statement .rts := of_operandBytes rfl
theorem bcc (off : Byte) : Statement (.bcc off) := of_operandBytes rfl
theorem bcs (off : Byte) : Statement (.bcs off) := of_operandBytes rfl
theorem beq (off : Byte) : Statement (.beq off) := of_operandBytes rfl
theorem bne (off : Byte) : Statement (.bne off) := of_operandBytes rfl
theorem bmi (off : Byte) : Statement (.bmi off) := of_operandBytes rfl
theorem bpl (off : Byte) : Statement (.bpl off) := of_operandBytes rfl
theorem bvc (off : Byte) : Statement (.bvc off) := of_operandBytes rfl
theorem bvs (off : Byte) : Statement (.bvs off) := of_operandBytes rfl
theorem pha : Statement .pha := of_operandBytes rfl
theorem pla : Statement .pla := of_operandBytes rfl
theorem php : Statement .php := of_operandBytes rfl
theorem plp : Statement .plp := of_operandBytes rfl
theorem clc : Statement .clc := of_operandBytes rfl
theorem sec : Statement .sec := of_operandBytes rfl
theorem cli : Statement .cli := of_operandBytes rfl
theorem sei : Statement .sei := of_operandBytes rfl
theorem cld : Statement .cld := of_operandBytes rfl
theorem sed : Statement .sed := of_operandBytes rfl
theorem clv : Statement .clv := of_operandBytes rfl
theorem brk : Statement .brk := of_operandBytes rfl
theorem rti : Statement .rti := of_operandBytes rfl
theorem nop : Statement .nop := of_operandBytes rfl
theorem und (op : Byte) : Statement (.und op) := of_operandBytes rfl

end Sys2Proof.Laws.EncodedLength
end

