-- ==== Sys2Proof/Tests/Slice0.lean ====
section
/-! SUPPORT. Tests on fixed values: ill-formed instructions are refused, instruction bytes written out from the
spec's tables decode, one step of each instruction gives what the spec's vectors say (`95_test_vectors.md`), and
for every statement of `Certificates/Slice0/Obligations.lean` that has hypotheses a witness that meets them. -/

namespace Sys2Proof.Tests

open Sys2Proof Sys2Proof.Machine

/-! ### Ill-formed instructions -/

/-- Check 1, the mode is a supported slot: the "unsupported" slots of R102. -/
theorem test_wellFormed_refuses_unsupported_modes :
    (Instr.ldx (.mem (.zpx 0))).wellFormed = false ∧ (Instr.sta (.zpy 0)).wellFormed = false ∧
    (Instr.bit (.indx 0)).wellFormed = false ∧ (Instr.inc (.absy 0)).wellFormed = false ∧
    (Instr.ror (.mem (.indy 0))).wellFormed = false ∧ (Instr.ldx (.mem (.zpx 0))).modeSupported = false := by decide

/-- Check 2, the byte is an undefined opcode: 0xA9 is LDA's (R101, R103). -/
theorem test_wellFormed_refuses_defined_byte_as_undefined :
    (Instr.und 0xA9).wellFormed = false ∧ (Instr.und 0xA9).modeSupported = true ∧
    (Instr.und 0xA9).undefinedByteOk = false ∧ (Instr.und 0xFF).wellFormed = true := by decide

/-! ### Decoding: every constructor, by bytes written out from the tables of R101 to R103 -/

theorem test_decode_loads_stores_transfers_1 :
    decodeBytes [0xA9, 0x01] = .ok (.lda (.imm 0x01), []) ∧
    decodeBytes [0xB6, 0x80] = .ok (.ldx (.mem (.zpy 0x80)), []) ∧
    decodeBytes [0xBC, 0x00, 0x03] = .ok (.ldy (.mem (.absx 0x0300)), []) ∧
    decodeBytes [0x9D, 0xFF, 0x02] = .ok (.sta (.absx 0x02FF), []) ∧
    decodeBytes [0x8E, 0x34, 0x12] = .ok (.stx (.abs 0x1234), []) ∧
    decodeBytes [0x94, 0xF0] = .ok (.sty (.zpx 0xF0), []) := by decide

theorem test_decode_loads_stores_transfers_2 :
    decodeBytes [0xAA] = .ok (.tax, []) ∧
    decodeBytes [0xA8] = .ok (.tay, []) ∧
    decodeBytes [0x8A] = .ok (.txa, []) ∧
    decodeBytes [0x98] = .ok (.tya, []) ∧
    decodeBytes [0xBA] = .ok (.tsx, []) ∧
    decodeBytes [0x9A] = .ok (.txs, []) := by decide

theorem test_decode_arithmetic_1 :
    decodeBytes [0x61, 0xFE] = .ok (.adc (.mem (.indx 0xFE)), []) ∧
    decodeBytes [0xF1, 0x10] = .ok (.sbc (.mem (.indy 0x10)), []) ∧
    decodeBytes [0xD9, 0x34, 0x12] = .ok (.cmp (.mem (.absy 0x1234)), []) ∧
    decodeBytes [0xE4, 0x10] = .ok (.cpx (.mem (.zp 0x10)), []) ∧
    decodeBytes [0xC0, 0x01] = .ok (.cpy (.imm 0x01), []) ∧
    decodeBytes [0xFE, 0xFF, 0x02] = .ok (.inc (.absx 0x02FF), []) := by decide

theorem test_decode_arithmetic_2 :
    decodeBytes [0xE8] = .ok (.inx, []) ∧
    decodeBytes [0xC8] = .ok (.iny, []) ∧
    decodeBytes [0xD6, 0x10] = .ok (.dec (.zpx 0x10), []) ∧
    decodeBytes [0xCA] = .ok (.dex, []) ∧
    decodeBytes [0x88] = .ok (.dey, []) := by decide

theorem test_decode_logic_shifts :
    decodeBytes [0x35, 0x10] = .ok (.and (.mem (.zpx 0x10)), []) ∧
    decodeBytes [0x0D, 0x00, 0x03] = .ok (.ora (.mem (.abs 0x0300)), []) ∧
    decodeBytes [0x45, 0x10] = .ok (.eor (.mem (.zp 0x10)), []) ∧
    decodeBytes [0x2C, 0x00, 0x03] = .ok (.bit (.abs 0x0300), []) ∧
    decodeBytes [0x0A] = .ok (.asl .acc, []) ∧
    decodeBytes [0x5E, 0x00, 0x03] = .ok (.lsr (.mem (.absx 0x0300)), []) ∧
    decodeBytes [0x2A] = .ok (.rol .acc, []) ∧
    decodeBytes [0x66, 0x10] = .ok (.ror (.mem (.zp 0x10)), []) := by decide

theorem test_decode_jumps_branches_1 :
    decodeBytes [0x6C, 0xFF, 0x02] = .ok (.jmp (.ind 0x02FF), []) ∧
    decodeBytes [0x20, 0x09, 0x06] = .ok (.jsr 0x0609, []) ∧
    decodeBytes [0x60] = .ok (.rts, []) ∧
    decodeBytes [0x90, 0x02] = .ok (.bcc 0x02, []) ∧
    decodeBytes [0xB0, 0x20] = .ok (.bcs 0x20, []) ∧
    decodeBytes [0xF0, 0xFC] = .ok (.beq 0xFC, []) := by decide

theorem test_decode_jumps_branches_2 :
    decodeBytes [0xD0, 0xFD] = .ok (.bne 0xFD, []) ∧
    decodeBytes [0x30, 0xFE] = .ok (.bmi 0xFE, []) ∧
    decodeBytes [0x10, 0x80] = .ok (.bpl 0x80, []) ∧
    decodeBytes [0x50, 0x00] = .ok (.bvc 0x00, []) ∧
    decodeBytes [0x70, 0x7F] = .ok (.bvs 0x7F, []) := by decide

theorem test_decode_stack_flags_1 :
    decodeBytes [0x48] = .ok (.pha, []) ∧
    decodeBytes [0x68] = .ok (.pla, []) ∧
    decodeBytes [0x08] = .ok (.php, []) ∧
    decodeBytes [0x28] = .ok (.plp, []) ∧
    decodeBytes [0x18] = .ok (.clc, []) ∧
    decodeBytes [0x38] = .ok (.sec, []) := by decide

theorem test_decode_stack_flags_2 :
    decodeBytes [0x58] = .ok (.cli, []) ∧
    decodeBytes [0x78] = .ok (.sei, []) ∧
    decodeBytes [0xD8] = .ok (.cld, []) ∧
    decodeBytes [0xF8] = .ok (.sed, []) ∧
    decodeBytes [0xB8] = .ok (.clv, []) := by decide

theorem test_decode_system :
    decodeBytes [0x00] = .ok (.brk, []) ∧
    decodeBytes [0x40] = .ok (.rti, []) ∧
    decodeBytes [0xEA] = .ok (.nop, []) ∧
    decodeBytes [0x02] = .ok (.und 0x02, []) := by decide

/-- The decoder refuses a byte sequence that ends before its instruction does. -/
theorem test_decode_refuses_short_sequences :
    decodeBytes [] = .error .noBytes ∧ decodeBytes [0xAD, 0x00] = .error (.truncated 0xAD) ∧
    decodeBytes [0xA9] = .error (.truncated 0xA9) := by decide

/-- A table word has its first byte in its low bits, and the bits above it are zero. -/
theorem test_decodeTableWord :
    decodeTableWord 8 0xA9 = some (.lda (.imm 0x00)) ∧ decodeTableWord 24 0x12348D = some (.sta (.abs 0x1234)) ∧
    decodeTableWord 8 0xFF = some (.und 0xFF) := by decide

/-! ### One step per instruction, from the vectors of part 2 -/

/-- The state of a vector: after `Reset(true)`, with bytes loaded at an address and the program counter there,
further memory cells, and A, X, Y, SP and P. -/
def machine (pc : Addr) (bytes : List Byte) (cells : List (Addr × Byte)) (a x y sp p : Byte) : State :=
  let s := cells.foldl (fun s c => s.write c.1 c.2) State.reset
  { s with a := a, x := x, y := y, sp := sp, p := p, pc := pc, mem := Memory.writeBytes s.mem pc.toNat bytes }

/-- The step answers a next state that passes a check. -/
def after (s : State) (check : State → Bool) : Bool :=
  match step s with
  | .next t => check t
  | .fault _ | .refused _ => false

/-- V7: LDA INDX, pointer low at 00FF, high at 0000 (R121, R94). -/
theorem test_lda_V7 :
    after (machine 0x0600 [0xA1, 0xFE] [(0x00FF, 0x34), (0x0000, 0x12), (0x0100, 0x99), (0x1234, 0x5A)] 0x00 0x01 0x00 0xFF 0x20)
      (fun t => t.a == 0x5A && t.p == 0x20 && t.pc == 0x0602 && t.result == ⟨6, false⟩) = true := by decide

/-- V8: LDA INDY, page cross (R121, R95). -/
theorem test_lda_V8 :
    after (machine 0x0600 [0xB1, 0x10] [(0x0010, 0xFF), (0x0011, 0x02), (0x0300, 0x44)] 0x00 0x00 0x01 0xFF 0x20)
      (fun t => t.a == 0x44 && t.p == 0x20 && t.pc == 0x0602 && t.result == ⟨6, false⟩) = true := by decide

/-- V10: LDX ZPY, sum wraps (R122, R89). -/
theorem test_ldx_V10 :
    after (machine 0x0600 [0xB6, 0x80] [(0x007F, 0xFE)] 0x00 0x00 0xFF 0xFF 0x20)
      (fun t => t.x == 0xFE && t.p == 0xA0 && t.pc == 0x0602 && t.result == ⟨4, false⟩) = true := by decide

/-- V12: LDY ABSX (R123). -/
theorem test_ldy_V12 :
    after (machine 0x0600 [0xBC, 0x00, 0x03] [(0x0305, 0x7F)] 0x00 0x05 0x00 0xFF 0x20)
      (fun t => t.y == 0x7F && t.p == 0x20 && t.pc == 0x0603 && t.result == ⟨4, false⟩) = true := by decide

/-- V14: STA INDY crossing a page: always 6 (R124, R99). -/
theorem test_sta_V14 :
    after (machine 0x0600 [0x91, 0x20] [(0x0020, 0xF0), (0x0021, 0x02)] 0xCD 0x00 0x20 0xFF 0x20)
      (fun t => t.p == 0x20 && t.pc == 0x0602 && t.read 0x0310 == 0xCD && t.result == ⟨6, false⟩) = true := by decide

/-- V17: STX ZPY, sum wraps (R125, R89). -/
theorem test_stx_V17 :
    after (machine 0x0600 [0x96, 0xFF] [] 0x00 0x12 0x02 0xFF 0x20)
      (fun t => t.p == 0x20 && t.pc == 0x0602 && t.read 0x0001 == 0x12 && t.result == ⟨4, false⟩) = true := by decide

/-- V18: STY ZPX, sum wraps (R126, R88). -/
theorem test_sty_V18 :
    after (machine 0x0600 [0x94, 0xF0] [] 0x00 0x20 0x05 0xFF 0x20)
      (fun t => t.p == 0x20 && t.pc == 0x0602 && t.read 0x0010 == 0x05 && t.result == ⟨4, false⟩) = true := by decide

/-- V19: TAX (R127). -/
theorem test_tax_V19 :
    after (machine 0x0600 [0xAA] [] 0x80 0x00 0x00 0xFF 0x20)
      (fun t => t.x == 0x80 && t.p == 0xA0 && t.pc == 0x0601 && t.result == ⟨2, false⟩) = true := by decide

/-- TAY of 0x80 sets N (R128). -/
theorem test_tay_negative :
    after (machine 0x0600 [0xA8] [] 0x80 0x00 0x00 0xFF 0x20)
      (fun t => t.y == 0x80 && t.p == 0xA0 && t.pc == 0x0601 && t.result == ⟨2, false⟩) = true := by decide

/-- V22: TXA, zero (R129). -/
theorem test_txa_V22 :
    after (machine 0x0600 [0x8A] [] 0x09 0x00 0x00 0xFF 0x20)
      (fun t => t.a == 0x00 && t.p == 0x22 && t.pc == 0x0601 && t.result == ⟨2, false⟩) = true := by decide

/-- TYA of 0x00 sets Z (R130). -/
theorem test_tya_zero :
    after (machine 0x0600 [0x98] [] 0x09 0x00 0x00 0xFF 0x20)
      (fun t => t.a == 0x00 && t.p == 0x22 && t.pc == 0x0601 && t.result == ⟨2, false⟩) = true := by decide

/-- V20: TSX sets N, Z from SP (R131). -/
theorem test_tsx_V20 :
    after (machine 0x0600 [0xBA] [] 0x00 0x00 0x00 0xFF 0x20)
      (fun t => t.x == 0xFF && t.p == 0xA0 && t.pc == 0x0601 && t.result == ⟨2, false⟩) = true := by decide

/-- V21: TXS changes no flag (R132). -/
theorem test_txs_V21 :
    after (machine 0x0600 [0x9A] [] 0x00 0x00 0x00 0xFF 0xA0)
      (fun t => t.sp == 0x00 && t.p == 0xA0 && t.pc == 0x0601 && t.result == ⟨2, false⟩) = true := by decide

/-- V32: ADC 7F+00+C: overflow through the carry-in (R140). -/
theorem test_adc_V32 :
    after (machine 0x0600 [0x69, 0x00] [] 0x7F 0x00 0x00 0xFF 0x21)
      (fun t => t.a == 0x80 && t.p == 0xE0 && t.pc == 0x0602 && t.result == ⟨2, false⟩) = true := by decide

/-- V44: SBC 80−01: overflow, no borrow (R142). -/
theorem test_sbc_V44 :
    after (machine 0x0600 [0xE9, 0x01] [] 0x80 0x00 0x00 0xFF 0x21)
      (fun t => t.a == 0x7F && t.p == 0x61 && t.pc == 0x0602 && t.result == ⟨2, false⟩) = true := by decide

/-- V53: CMP 80 with 01: greater, result 7F (R144). -/
theorem test_cmp_V53 :
    after (machine 0x0600 [0xC9, 0x01] [] 0x80 0x00 0x00 0xFF 0x20)
      (fun t => t.p == 0x21 && t.pc == 0x0602 && t.result == ⟨2, false⟩) = true := by decide

/-- V55: CPX ZP equal (R145). -/
theorem test_cpx_V55 :
    after (machine 0x0600 [0xE4, 0x10] [(0x0010, 0x10)] 0x00 0x10 0x00 0xFF 0x20)
      (fun t => t.p == 0x23 && t.pc == 0x0602 && t.result == ⟨3, false⟩) = true := by decide

/-- V56: CPY 00 with 01 (R146). -/
theorem test_cpy_V56 :
    after (machine 0x0600 [0xC0, 0x01] [] 0x00 0x00 0x00 0xFF 0x20)
      (fun t => t.p == 0xA0 && t.pc == 0x0602 && t.result == ⟨2, false⟩) = true := by decide

/-- V57: INC ZP wraps to zero; C untouched (R147). -/
theorem test_inc_V57 :
    after (machine 0x0600 [0xE6, 0x10] [(0x0010, 0xFF)] 0x00 0x00 0x00 0xFF 0x21)
      (fun t => t.p == 0x23 && t.pc == 0x0602 && t.read 0x0010 == 0x00 && t.result == ⟨5, false⟩) = true := by decide

/-- V61: INX wraps (R148). -/
theorem test_inx_V61 :
    after (machine 0x0600 [0xE8] [] 0x00 0xFF 0x00 0xFF 0x20)
      (fun t => t.x == 0x00 && t.p == 0x22 && t.pc == 0x0601 && t.result == ⟨2, false⟩) = true := by decide

/-- V63: INY to 80 (R149). -/
theorem test_iny_V63 :
    after (machine 0x0600 [0xC8] [] 0x00 0x00 0x7F 0xFF 0x20)
      (fun t => t.y == 0x80 && t.p == 0xA0 && t.pc == 0x0601 && t.result == ⟨2, false⟩) = true := by decide

/-- V60: DEC ZPX wraps to FF (R150). -/
theorem test_dec_V60 :
    after (machine 0x0600 [0xD6, 0x10] [(0x0015, 0x00)] 0x00 0x05 0x00 0xFF 0x20)
      (fun t => t.p == 0xA0 && t.pc == 0x0602 && t.read 0x0015 == 0xFF && t.result == ⟨6, false⟩) = true := by decide

/-- V62: DEX wraps (R151). -/
theorem test_dex_V62 :
    after (machine 0x0600 [0xCA] [] 0x00 0x00 0x00 0xFF 0x20)
      (fun t => t.x == 0xFF && t.p == 0xA0 && t.pc == 0x0601 && t.result == ⟨2, false⟩) = true := by decide

/-- V64: DEY to zero (R152). -/
theorem test_dey_V64 :
    after (machine 0x0600 [0x88] [] 0x00 0x00 0x01 0xFF 0x20)
      (fun t => t.y == 0x00 && t.p == 0x22 && t.pc == 0x0601 && t.result == ⟨2, false⟩) = true := by decide

/-- V70: AND (R160). -/
theorem test_and_V70 :
    after (machine 0x0600 [0x29, 0x0F] [] 0xF5 0x00 0x00 0xFF 0x20)
      (fun t => t.a == 0x05 && t.p == 0x20 && t.pc == 0x0602 && t.result == ⟨2, false⟩) = true := by decide

/-- V72: ORA, negative (R161). -/
theorem test_ora_V72 :
    after (machine 0x0600 [0x09, 0x80] [] 0x01 0x00 0x00 0xFF 0x20)
      (fun t => t.a == 0x81 && t.p == 0xA0 && t.pc == 0x0602 && t.result == ⟨2, false⟩) = true := by decide

/-- V73: EOR ZP to zero (R162). -/
theorem test_eor_V73 :
    after (machine 0x0600 [0x45, 0x10] [(0x0010, 0xAA)] 0xAA 0x00 0x00 0xFF 0x20)
      (fun t => t.a == 0x00 && t.p == 0x22 && t.pc == 0x0602 && t.result == ⟨3, false⟩) = true := by decide

/-- V74: BIT: N, V from the operand, Z from A and operand; A unchanged (R163). -/
theorem test_bit_V74 :
    after (machine 0x0600 [0x24, 0x10] [(0x0010, 0xC0)] 0x01 0x00 0x00 0xFF 0x20)
      (fun t => t.a == 0x01 && t.p == 0xE2 && t.pc == 0x0602 && t.result == ⟨3, false⟩) = true := by decide

/-- V78: ASL ZP (R164). -/
theorem test_asl_V78 :
    after (machine 0x0600 [0x06, 0x10] [(0x0010, 0xC1)] 0x00 0x00 0x00 0xFF 0x20)
      (fun t => t.p == 0xA1 && t.pc == 0x0602 && t.read 0x0010 == 0x82 && t.result == ⟨5, false⟩) = true := by decide

/-- V80: LSR ABSX (R165). -/
theorem test_lsr_V80 :
    after (machine 0x0600 [0x5E, 0x00, 0x03] [(0x0302, 0x82)] 0x00 0x02 0x00 0xFF 0x20)
      (fun t => t.p == 0x20 && t.pc == 0x0603 && t.read 0x0302 == 0x41 && t.result == ⟨7, false⟩) = true := by decide

/-- V81: ROL A, carry in to bit 0 (R166). -/
theorem test_rol_V81 :
    after (machine 0x0600 [0x2A] [] 0x40 0x00 0x00 0xFF 0x21)
      (fun t => t.a == 0x81 && t.p == 0xA0 && t.pc == 0x0601 && t.result == ⟨2, false⟩) = true := by decide

/-- V83: ROR A, carry in to bit 7, carry out (R167). -/
theorem test_ror_V83 :
    after (machine 0x0600 [0x6A] [] 0x01 0x00 0x00 0xFF 0x21)
      (fun t => t.a == 0x80 && t.p == 0xA1 && t.pc == 0x0601 && t.result == ⟨2, false⟩) = true := by decide

/-- V90: JMP ABS (R180). -/
theorem test_jmp_V90 :
    after (machine 0x0600 [0x4C, 0x08, 0x06] [] 0x00 0x00 0x00 0xFF 0x20)
      (fun t => t.p == 0x20 && t.pc == 0x0608 && t.result == ⟨3, false⟩) = true := by decide

/-- V94: JSR with SP=00: second push wraps to 01FF (R181, R60). -/
theorem test_jsr_V94 :
    after (machine 0x0600 [0x20, 0x00, 0x07] [] 0x00 0x00 0x00 0x00 0x20)
      (fun t => t.sp == 0xFE && t.pc == 0x0700 && t.read 0x0100 == 0x06 && t.read 0x01FF == 0x02 && t.result == ⟨6, false⟩) = true := by decide

/-- V96: RTS, pulled FFFF + 1 wraps (R182). -/
theorem test_rts_V96 :
    after (machine 0x0700 [0x60] [(0x01FE, 0xFF), (0x01FF, 0xFF)] 0x00 0x00 0x00 0xFD 0x20)
      (fun t => t.sp == 0xFF && t.pc == 0x0000 && t.result == ⟨6, false⟩) = true := by decide

/-- V100: BCC taken, same page (R184, R183). -/
theorem test_bcc_V100 :
    after (machine 0x0600 [0x90, 0x02] [] 0x00 0x00 0x00 0xFF 0x20)
      (fun t => t.pc == 0x0604 && t.result == ⟨3, false⟩) = true := by decide

/-- V107: BCS, target wraps past FFFF (R185, R183). -/
theorem test_bcs_V107 :
    after (machine 0xFFF0 [0xB0, 0x20] [] 0x00 0x00 0x00 0xFF 0x21)
      (fun t => t.p == 0x21 && t.pc == 0x0012 && t.result == ⟨4, false⟩) = true := by decide

/-- V104: BEQ backward across a page (R186, R183). -/
theorem test_beq_V104 :
    after (machine 0x0700 [0xF0, 0xFC] [] 0x00 0x00 0x00 0xFF 0x22)
      (fun t => t.p == 0x22 && t.pc == 0x06FE && t.result == ⟨4, false⟩) = true := by decide

/-- V103: BNE forward across a page (R187, R183). -/
theorem test_bne_V103 :
    after (machine 0x06FD [0xD0, 0x05] [] 0x00 0x00 0x00 0xFF 0x20)
      (fun t => t.pc == 0x0704 && t.result == ⟨4, false⟩) = true := by decide

/-- V106: BMI to itself, offset FE (R188). -/
theorem test_bmi_V106 :
    after (machine 0x0600 [0x30, 0xFE] [] 0x00 0x00 0x00 0xFF 0xA0)
      (fun t => t.p == 0xA0 && t.pc == 0x0600 && t.result == ⟨3, false⟩) = true := by decide

/-- V105: BPL, offset 80 = −128 (R189). -/
theorem test_bpl_V105 :
    after (machine 0x0680 [0x10, 0x80] [] 0x00 0x00 0x00 0xFF 0x20)
      (fun t => t.pc == 0x0602 && t.result == ⟨3, false⟩) = true := by decide

/-- V108: BVC taken, offset 0 (R190). -/
theorem test_bvc_V108 :
    after (machine 0x0600 [0x50, 0x00] [] 0x00 0x00 0x00 0xFF 0x20)
      (fun t => t.pc == 0x0602 && t.result == ⟨3, false⟩) = true := by decide

/-- V109: BVS, offset 7F = +127 (R191). -/
theorem test_bvs_V109 :
    after (machine 0x0600 [0x70, 0x7F] [] 0x00 0x00 0x00 0xFF 0x60)
      (fun t => t.p == 0x60 && t.pc == 0x0681 && t.result == ⟨3, false⟩) = true := by decide

/-- V121: PHA with SP=00 wraps SP to FF (R200, R60). -/
theorem test_pha_V121 :
    after (machine 0x0600 [0x48] [] 0x42 0x00 0x00 0x00 0x20)
      (fun t => t.sp == 0xFF && t.p == 0x20 && t.pc == 0x0601 && t.read 0x0100 == 0x42 && t.result == ⟨3, false⟩) = true := by decide

/-- V123: PLA with SP=FF wraps to 00 and reads 0100 (R201, R61). -/
theorem test_pla_V123 :
    after (machine 0x0600 [0x68] [(0x0100, 0x80)] 0x00 0x00 0x00 0xFF 0x20)
      (fun t => t.a == 0x80 && t.sp == 0x00 && t.p == 0xA0 && t.pc == 0x0601 && t.result == ⟨4, false⟩) = true := by decide

/-- V125: PHP (R202). -/
theorem test_php_V125 :
    after (machine 0x0600 [0x08] [] 0x00 0x00 0x00 0xFF 0x23)
      (fun t => t.sp == 0xFE && t.p == 0x23 && t.pc == 0x0601 && t.read 0x01FF == 0x33 && t.result == ⟨3, false⟩) = true := by decide

/-- V126: PLP of FF: bit 4 stays 0, bit 5 stays 1 (R203). -/
theorem test_plp_V126 :
    after (machine 0x0600 [0x28] [(0x01FF, 0xFF)] 0x00 0x00 0x00 0xFE 0x20)
      (fun t => t.sp == 0xFF && t.p == 0xEF && t.pc == 0x0601 && t.result == ⟨4, false⟩) = true := by decide

/-- V129: CLC (R204). -/
theorem test_clc_V129 :
    after (machine 0x0600 [0x18] [] 0x00 0x00 0x00 0xFF 0x21)
      (fun t => t.p == 0x20 && t.pc == 0x0601 && t.result == ⟨2, false⟩) = true := by decide

/-- V128: SEC (R205). -/
theorem test_sec_V128 :
    after (machine 0x0600 [0x38] [] 0x00 0x00 0x00 0xFF 0x20)
      (fun t => t.p == 0x21 && t.pc == 0x0601 && t.result == ⟨2, false⟩) = true := by decide

/-- V131: CLI (R206). -/
theorem test_cli_V131 :
    after (machine 0x0600 [0x58] [] 0x00 0x00 0x00 0xFF 0x24)
      (fun t => t.p == 0x20 && t.pc == 0x0601 && t.result == ⟨2, false⟩) = true := by decide

/-- V130: SEI (R207). -/
theorem test_sei_V130 :
    after (machine 0x0600 [0x78] [] 0x00 0x00 0x00 0xFF 0x20)
      (fun t => t.p == 0x24 && t.pc == 0x0601 && t.result == ⟨2, false⟩) = true := by decide

/-- V133: CLD (R208). -/
theorem test_cld_V133 :
    after (machine 0x0600 [0xD8] [] 0x00 0x00 0x00 0xFF 0x28)
      (fun t => t.p == 0x20 && t.pc == 0x0601 && t.result == ⟨2, false⟩) = true := by decide

/-- V132: SED (R209). -/
theorem test_sed_V132 :
    after (machine 0x0600 [0xF8] [] 0x00 0x00 0x00 0xFF 0x20)
      (fun t => t.p == 0x28 && t.pc == 0x0601 && t.result == ⟨2, false⟩) = true := by decide

/-- V134: CLV (R210). -/
theorem test_clv_V134 :
    after (machine 0x0600 [0xB8] [] 0x00 0x00 0x00 0xFF 0x60)
      (fun t => t.p == 0x20 && t.pc == 0x0601 && t.result == ⟨2, false⟩) = true := by decide

/-- V141: BRK with SP=01: the third push wraps to 01FF; old I pushed, D kept (R220, R60). -/
theorem test_brk_V141 :
    after (machine 0x0600 [0x00] [(0xFFFE, 0x34), (0xFFFF, 0x12)] 0x00 0x00 0x00 0x01 0xA9)
      (fun t => t.sp == 0xFE && t.p == 0xAD && t.pc == 0x1234 && t.read 0x0101 == 0x06 && t.read 0x0100 == 0x02 && t.read 0x01FF == 0xB9 && t.result == ⟨7, true⟩) = true := by decide

/-- V144: RTI: pulled C3 gives N V Z C; bits 4, 5 of P keep their value; no +1 on the address (R221). -/
theorem test_rti_V144 :
    after (machine 0x0700 [0x40] [(0x01FD, 0xC3), (0x01FE, 0x00), (0x01FF, 0x80)] 0x00 0x00 0x00 0xFC 0x24)
      (fun t => t.sp == 0xFF && t.p == 0xE3 && t.pc == 0x8000 && t.result == ⟨6, false⟩) = true := by decide

/-- V145: NOP (R222). -/
theorem test_nop_V145 :
    after (machine 0x0600 [0xEA] [] 0x00 0x00 0x00 0xFF 0x20)
      (fun t => t.p == 0x20 && t.pc == 0x0601 && t.result == ⟨2, false⟩) = true := by decide

/-- V147: undefined opcode FF followed by two bytes: only one byte consumed (R223). -/
theorem test_und_V147 :
    after (machine 0x0600 [0xFF, 0x00, 0x02] [] 0x00 0x00 0x00 0xFF 0x20)
      (fun t => t.p == 0x20 && t.pc == 0x0601) = true := by decide

/-- V37, V47: decimal addition and subtraction. V is a free value, so the step's P is not compared (R141, R143). -/
theorem test_decimal_V37_V47 :
    after (machine 0x0600 [0x69, 0x46] [] 0x58 0x00 0x00 0xFF 0x29) (fun t => t.a == 0x05 && t.pc == 0x0602) = true ∧
    addDecimal 0x58 0x46 true = (0x05, true) ∧
    after (machine 0x0600 [0xE9, 0x21] [] 0x12 0x00 0x00 0xFF 0x29) (fun t => t.a == 0x91 && t.pc == 0x0602) = true ∧
    subDecimal 0x12 0x21 true = (0x91, false) := by decide

/-- V91: the pointer's low byte is not 0xFF, so both values of `JMP_IND_PAGE_WRAP` agree (R93). -/
theorem test_jmp_V91 :
    let s := machine 0x0600 [0x6C, 0x20, 0x01] [(0x0120, 0x34), (0x0121, 0x12)] 0x00 0x00 0x00 0xFF 0x20
    ∀ wrap : Bool, s.indirectTarget wrap 0x0120 = 0x1234 := by decide

/-- V92: the pointer's low byte is 0xFF, under both values of `JMP_IND_PAGE_WRAP` (R93). -/
theorem test_jmp_V92 :
    let s := machine 0x0600 [0x6C, 0xFF, 0x02] [(0x02FF, 0x34), (0x0300, 0x12), (0x0200, 0x56)] 0x00 0x00 0x00 0xFF 0x20
    s.indirectTarget true 0x02FF = 0x5634 ∧ s.indirectTarget false 0x02FF = 0x1234 := by decide

/-- The word placed for the next step is the one that runs, as the first instruction after reset. -/
theorem test_withFetchWord :
    after (State.reset.withFetchWord 16 0x80A9) (fun t => t.a == 0x80 && t.pc == 0x0002) = true := by decide

/-! ### Host operations, from the vectors of part 3 -/

/-- H2: `Reset(false)` keeps memory. -/
theorem test_reset_H2 :
    ((hostReset false { machine 0x0600 [] [(0x0200, 0xAB)] 0x12 0x00 0x00 0xFF 0x20 with cyc := 99 }).toOption.map fun t =>
      (t.a, t.cyc, t.read 0x0200)) = some (0x00, 0, 0xAB) := by decide

/-- H4 and H5: a load up to the top of memory, and one past it. -/
theorem test_load_H4_H5 :
    ((hostLoad 0xFFFE [0x01, 0x02] State.reset).toOption.map fun t => (t.read 0xFFFE, t.read 0xFFFF, t.pc)) =
      some (0x01, 0x02, 0x0000) ∧ (hostLoad 0xFFFE [0x01, 0x02, 0x03] State.reset).toOption = none := by decide

/-- H7 and H8: host writes are masked to the width of what they write. -/
theorem test_masks_H7_H8 :
    (hostWriteWord 0xFFFF 0x1234 State.reset).read 0x0000 = 0x12 ∧
    ((hostWriteReg .A 0x1FF State.reset).toOption.map State.a) = some 0xFF ∧
    ((hostWriteReg .PC 0x10600 State.reset).toOption.map State.pc) = some 0x0600 := by decide

/-- H9: with nothing loaded, the first step executes the 0x00 at address 0 as BRK. -/
theorem test_step_H9 :
    after State.reset (fun t => t.sp == 0xFC && t.p == 0x24 && t.pc == 0x0000 && t.read 0x01FE == 0x02 &&
      t.result == ⟨7, true⟩) = true := by decide

/-! ### Assembler and disassembler, from the vectors of part 4 -/

/-- The output of an assembly, or nothing where it is refused. -/
def assembled (text : String) (base : Addr) : Option (List Byte) := (assembleWith "DCB" text base).toOption

/-- The error of an assembly, or nothing where it is accepted. -/
def refusedFor (text : String) (base : Addr) : Option AsmError :=
  match assembleWith "DCB" text base with
  | .error e => some e
  | .ok _ => none

/-- AV4, AV7: the value of a literal decides between zero page and absolute; LDA has no ZPY slot. -/
theorem test_assemble_AV4_AV7 :
    assembled "LDA $0010" 0 = some [0xA5, 0x10] ∧ assembled "LDA $10,Y" 0 = some [0xB9, 0x10, 0x00] := by decide

/-- AV27: a constant named X rewrites inside MAX. -/
theorem test_assemble_AV27 :
    refusedFor "DEFINE X $20\nLDA MAX" 0 = some (.syntaxError 2 .noAddressingMode) := by decide

/-- AV43, AV44: a branch reaches 128 bytes back and not 128 forward. -/
theorem test_assemble_AV43_AV44 :
    assembled "BNE $0682" 0x0600 = none ∧ assembled "BNE $0582" 0x0600 = some [0xD0, 0x80] := by decide

/-- AV32, the byte-literal line: a string keeps its case. -/
theorem test_assemble_AV32_bytes : assembled "dcb $01,2,%11,\"Hi\"" 0 = some [0x01, 0x02, 0x03, 0x48, 0x69] := by decide

/-- A string with a character it may not hold or with an escape is refused, in a byte-literal line and in a constant
definition (R251, U11). -/
theorem test_assemble_refuses_bad_strings :
    refusedFor "DCB \"a\\n\"" 0 = some (.syntaxError 1 .badString) ∧
    refusedFor "DCB \"a\"\"b\"" 0 = some (.syntaxError 1 .badString) ∧
    refusedFor "DEFINE S \"a,b\"" 0 = some (.syntaxError 1 .badString) ∧
    refusedFor "NOP\nDEF S \"a;b\"" 0 = some (.syntaxError 2 .badString) ∧
    refusedFor "DEF S \"ab\" ; it's \"so" 0 = none := by decide

/-- The record of an origin-set line has the address of the cursor when the line is reached (R266). -/
theorem test_origin_record_address :
    ((plainLine [] 1 "ORG $0700".toList ⟨0x0600, [], [], []⟩).toOption.map fun st =>
      (st.cursor, st.metas.map (fun m => (m.address, m.length)))) = some (0x0700, [(0x0600, 0)]) := by decide

/-- DV3, DV8: a missing byte reads 0x00, and a branch target is masked. -/
theorem test_disassemble_DV3_DV8 :
    (disassembleWith "???" [0x4C, 0x34] 0 0 2).map (fun d => (d.bytes, d.text)) = [([0x4C, 0x34, 0x00], "JMP $0034")] ∧
    (disassembleWith "???" [0xD0, 0x7F] 0xFFF0 0 2).map (fun d => (d.address, d.text)) = [(0xFFF0, "BNE $0071")] := by
  decide

/-! ### Witnesses: for every statement with hypotheses, values that meet them together -/

/-- A state with an instruction's bytes at 0x0600 and given A and P. -/
def running (bytes : List Byte) (a p : Byte) : State := machine 0x0600 bytes [] a 0x00 0x00 0xFF p

theorem witness_DecodeOfEncodeIsTheInstruction :
    (Instr.lda (.mem (.indy 0xFF))).wellFormed = true ∧ (Instr.und 0x02).wellFormed = true := by decide

theorem witness_StepRunsTheDecodedInstruction :
    let s := running [0xA9, 0x80] 0x00 0x20
    decodeBytes [s.read s.pc, s.read (s.pc + 1), s.read (s.pc + 2)] = .ok (.lda (.imm 0x80), [0x00]) := by decide

/-- At the top of memory, where the instruction's bytes wrap to address 0. -/
theorem witness_StepRunsTheEncodedInstruction :
    let s := machine 0xFFFF [0xA9] [(0x0000, 0x80)] 0x00 0x00 0x00 0xFF 0x20
    encode (.lda (.imm 0x80)) = some [0xA9, 0x80] ∧
    ∀ k : Nat, k < 2 → s.read (s.pc + BitVec.ofNat 16 k) = [0xA9, (0x80 : Byte)].getD k 0 := by decide

/-- A reading instruction in an indexed mode, and one that pays nothing. -/
theorem witness_CyclesAreBasePlusExtra :
    (Instr.lda (.mem (.absx 0x00FF))).wellFormed = true ∧ (Instr.cpx (.mem (.abs 0x00FF))).wellFormed = true := by decide

theorem witness_DecodedColumnsAreTheTables : (tableEntry 0xBD).isSome = true := by decide

theorem witness_OpcodeGroupsInvertTheTable :
    (tableEntry 0x6C).isSome = true ∧ (.IND, 0x6C) ∈ opcodeGroup .JMP := by decide

theorem witness_CanonicalMemoriesReadingAlikeAreEqual :
    let m := Memory.write (Memory.write [] 0x10 0x01) 0x0F 0x02
    let m' := Memory.write (Memory.write [] 0x0F 0x02) 0x10 0x01
    Memory.wf m = true ∧ Memory.wf m' = true ∧ ∀ a : Addr, Memory.read m a.toNat = Memory.read m' a.toNat :=
  ⟨by decide, by decide, fun _ => rfl⟩

/-- A run in progress, and none. -/
theorem witness_ResetGivesTheDocumentedState :
    ({ State.reset with running := true } : State).running = true ∧ State.reset.running = false := by decide

/-- The boundary of the two clauses: 65537 and 65536. -/
theorem witness_LoadStoresTheBytesOrRefuses :
    (0xFFFE : Addr).toNat + [(1 : Byte), 2, 3].length > 65536 ∧ (0xFFFE : Addr).toNat + [(1 : Byte), 2].length ≤ 65536 ∧
    1 < [(1 : Byte), 2].length ∧ (0xFFFD : Addr).toNat < (0xFFFE : Addr).toNat := by decide

theorem witness_HostAccessIsMasked : HostReg.P ≠ .CYC ∧ HostReg.PC ≠ .CYC ∧ HostReg.A ≠ .P := by decide

theorem witness_BinaryAdditionSetsCarryAndOverflow : (running [] 0x50 0x20).flag .D = false := by decide

/-- Both operands packed BCD, and one that is not. -/
theorem witness_DecimalAdditionIsCorrectOnBcd :
    (running [] 0x99 0x28).flag .D = true ∧ validBcd (running [] 0x99 0x28).a = true ∧
    validBcd ((ReadOperand.imm 0x99).value (running [] 0x99 0x28)) = true ∧
    (validBcd (running [] 0x9A 0x28).a && validBcd ((ReadOperand.imm 0x00).value (running [] 0x9A 0x28))) = false := by
  decide

theorem witness_BinarySubtractionSetsBorrowAndOverflow : (running [] 0x80 0x21).flag .D = false := by decide

/-- Both operands packed BCD, and one that is not. -/
theorem witness_DecimalSubtractionIsCorrectOnBcd :
    (running [] 0x00 0x28).flag .D = true ∧ validBcd (running [] 0x00 0x28).a = true ∧
    validBcd ((ReadOperand.imm 0x99).value (running [] 0x00 0x28)) = true ∧
    (validBcd (running [] 0x00 0x28).a && validBcd ((ReadOperand.imm 0xA0).value (running [] 0x00 0x28))) = false := by
  decide

/-- A pointer inside a page, and one at its end, where one of the two values of the parameter holds. -/
theorem witness_JumpsGoToTheirTarget :
    lo (0x02FE : Addr) ≠ 0xFF ∧ lo (0x02FF : Addr) = 0xFF ∧
    (Config.jmpIndPageWrap = false ∨ Config.jmpIndPageWrap = true) :=
  ⟨by decide, by decide, by cases Config.jmpIndPageWrap <;> decide⟩

/-- With SP at 0, so that the pushes wrap. -/
theorem witness_ReturnResumesAfterTheCall :
    let s := machine 0x0600 [0x20, 0x00, 0x07] [] 0x00 0x00 0x00 0x00 0x20
    ∃ t u, exec (.jsr 0x0700) s = .next t ∧ exec .rts (t.setPC 0x0700) = .next u := ⟨_, _, rfl, rfl⟩

/-- With SP at 1, so that the pushes wrap. -/
theorem witness_ReturnUndoesTheBreak :
    let s := machine 0x0600 [0x00] [] 0x00 0x00 0x00 0x01 0x20
    ∃ t u, exec .brk s = .next t ∧ exec .rti (t.setPC 0x0000) = .next u := ⟨_, _, rfl, rfl⟩

theorem witness_NoOperationsOnlyAdvance : 0x02 ∈ undefinedOpcodes ∧ 0xFF ∈ undefinedOpcodes := by decide

theorem witness_OnlyListedBytesOfMemoryChange : ∃ t, exec .brk (running [0x00] 0x00 0x20) = .next t := ⟨_, rfl⟩

/-- A decimal addition, which draws free values. -/
theorem witness_OnlyListedRegistersChange :
    ∃ t, exec (.adc (.imm 0x01)) (running [0x69, 0x01] 0x99 0x28) = .next t ∧
      t.freeCtr ≠ (running [0x69, 0x01] 0x99 0x28).freeCtr := ⟨_, rfl, by decide⟩

theorem witness_OnlyListedFlagsChange :
    (∃ t, exec .plp (running [0x28] 0x00 0x20) = .next t) ∧ .I ∈ flagsWritten .brk := ⟨⟨_, rfl⟩, by decide⟩

theorem witness_RunControlAndCounterAreInvisible : ∃ t, step (running [0xA9, 0x80] 0x00 0x20) = .next t := ⟨_, rfl⟩

theorem witness_StatusBitsFourAndFiveAreUnobservable : ∃ t, step (running [0x08] 0x00 0xFF) = .next t := ⟨_, rfl⟩

/-- An instruction that writes I, and one that does not. -/
theorem witness_InterruptDisableIsReadByNothing :
    (Instr.sei ≠ .php ∧ Instr.sei ≠ .brk ∧ .I ∈ flagsWritten .sei ∧
      ∃ t, exec .sei (running [0x78] 0x00 0x20) = .next t) ∧
    (Instr.tax ≠ .php ∧ Instr.tax ≠ .brk ∧ .I ∉ flagsWritten .tax ∧
      ∃ t, exec .tax (running [0xAA] 0x80 0x24) = .next t) :=
  ⟨⟨by decide, by decide, by decide, _, rfl⟩, by decide, by decide, by decide, _, rfl⟩

/-- A state that no reset gives: memory written, a run in progress. -/
theorem witness_StepKeepsTheInvariant :
    let s : State := { running [0x08] 0x42 0xEF with running := true, run := some ⟨true, 3, .batch⟩ }
    s.inv = true ∧ ∃ t, step s = .next t := ⟨by decide, _, rfl⟩

theorem witness_HostAndRunKeepTheInvariant :
    (∀ v, HostOp.writeReg .SP 0x1FF ≠ .writeReg .P v) ∧ (running [0x08] 0x42 0xEF).inv = true ∧
    ∃ t reply, hostOp (.writeReg .SP 0x1FF) (running [0x08] 0x42 0xEF) = .ok (t, reply) :=
  ⟨fun v => by simp, by decide, _, _, rfl⟩

/-- A run in progress at each point of its loop; in a batch, with the quota just not reached and just reached. -/
theorem witness_RunFollowsTheBatchLoop :
    let s : State := { State.reset with running := true, run := some ⟨true, 9, .batch⟩ }
    s.running = true ∧ State.reset.running = false ∧
    (s.setRun ⟨true, 9, .top⟩).run = some ⟨true, 9, .top⟩ ∧ s.run = some ⟨true, 9, .batch⟩ ∧ 9 < 10 ∧ ¬ 9 < 9 ∧
    (s.setRun ⟨true, 9, .boundary⟩).run = some ⟨true, 9, .boundary⟩ := by decide

/-- Inside a batch the phase is not the top; a halt is requested at a later top; and a run starts after a request. -/
theorem witness_HaltWaitsForTheTopOfABatch :
    (∀ r, (State.reset.setRun ⟨true, 3, .batch⟩).run = some r → r.phase ≠ .top) ∧
    ((halt State.reset).setRun ⟨true, 12, .top⟩).run = some ⟨true, 12, .top⟩ ∧
    ((halt State.reset).setRun ⟨true, 12, .top⟩).haltRequested = true ∧
    State.reset.running = false ∧ ∃ t, runStart true (halt State.reset) = .ok t :=
  ⟨fun r h => by cases h; decide, by decide, by decide, by decide, _, rfl⟩

/-- Memory of zeros, where the first step is a break, and a NOP before it. -/
theorem witness_BreakBoundedRunIsSteppingToTheBreak :
    State.reset.running = false ∧ State.reset.run = none ∧ State.reset.haltRequested = false ∧
    (breakAfter 0 State.reset).isSome = true ∧ (breakAfter 1 (running [0xEA] 0x00 0x20)).isSome = true := by decide

/-- Two records, the first of them number 0; and an empty range. -/
theorem witness_DisassemblyTilesTheRange :
    0 < (disassembleWith "???" [0xA9, 0x03, 0x00] 0x0600 0 3).length ∧
    1 < (disassembleWith "???" [0xA9, 0x03, 0x00] 0x0600 0 3).length ∧ (0 : Nat) < 3 ∧ (3 : Nat) ≤ 3 := by decide

theorem witness_PrintedBranchTargetIsWhereTheBranchGoes :
    branchOf (.bne 0x80) (running [0xD0, 0x80] 0x00 0x20) = some (0x80, true) := by decide

/-- The two ends of the range are inside it, and the next values are not. -/
theorem witness_BranchOffsetDecodesBack :
    branchOffset 0x0600 0x0582 = some 0x80 ∧ branchOffset 0x0600 0x0681 = some 0x7F ∧
    branchOffset 0x0600 0x0581 = none ∧ branchOffset 0x0600 0x0682 = none ∧
    -128 ≤ (0x0582 : Int) - 0x0602 ∧ (0x0681 : Int) - 0x0602 ≤ 127 := by decide

theorem witness_ResolverSelectsOnlySupportedSlots :
    resolve .JMP "$10".toList = .ok ⟨.ABS, .literal 0x10⟩ ∧ resolve .LDA "#$10".toList = .ok ⟨.IMM, .literal 0x10⟩ := by
  decide

/-- A branch backward, and an absolute operand below 0x0100. -/
theorem witness_AssembleOfDisassembly :
    mnemonicOf ("DCB".toList.map Char.toUpper) = none ∧ (∀ op, Instr.bne 0xFE ≠ .und op) ∧
    encode (.bne 0xFE) = some [0xD0, 0xFE] ∧ (0x0600 : Addr).toNat + [0xD0, (0xFE : Byte)].length ≤ 65536 ∧
    (Instr.bne 0xFE).mode = .REL ∧
    ((relativeTarget 0x0600 ([0xD0, (0xFE : Byte)].getD 1 0)).toNat : Int) =
      (0x0600 : Addr).toNat + 2 + ([0xD0, (0xFE : Byte)].getD 1 0).toInt ∧
    encode (.lda (.mem (.abs 0x0010))) = some [0xAD, 0x10, 0x00] ∧
    encode (reassembled (.lda (.mem (.abs 0x0010)))) = some [0xA5, 0x10] :=
  ⟨by decide, fun op => by simp, by decide, by decide, by decide, by decide, by decide, by decide⟩

end Sys2Proof.Tests
end

section
/-! ### What the meaning of an instruction may change -/

namespace Sys2Proof.Machine

/-- What lies between two states of which the second comes from the first by writing no register outside `rs`,
no flag outside `fs` and no byte outside `as`: the frame, and with it the canonical form of memory, the cycle
counter, and the draws of free values, made only where `draws` holds. -/
structure Effect (rs : List Reg) (fs : List Flag) (as : List Addr) (draws : Prop) (s u : State) : Prop where
  regs : sameRegsBut rs s u
  flags : sameFlagsBut fs s u
  memory : sameMemoryBut as s u
  runControl : sameRunControl s u
  wf : Memory.wf s.mem = true → Memory.wf u.mem = true
  cyc : u.cyc = s.cyc
  freeCtr : ¬ draws → u.freeCtr = s.freeCtr

namespace Effect

variable {rs : List Reg} {fs : List Flag} {as : List Addr} {d : Prop} {s u : State}

/-! #### The single writes -/

theorem refl : Effect rs fs as d s s where
  regs _ _ _ := rfl
  flags _ _ := rfl
  memory _ _ := rfl
  runControl := ⟨rfl, rfl, rfl⟩
  wf := id
  cyc := rfl
  freeCtr _ := rfl

theorem setPC (h : Effect rs fs as d s u) (t : Addr) : Effect rs fs as d s (u.setPC t) :=
  { h with regs := fun r hP hr => (u.reg_setPC t r).trans (h.regs r hP hr) }

theorem pastInstr {i : Instr} : Effect rs fs as d s (s.pastInstr i) := refl.setPC _

theorem setReg (h : Effect rs fs as d s u) {r : Reg} (v : Byte) (hr : r ∈ rs) (hP : r ≠ .P) :
    Effect rs fs as d s (u.setReg r v) where
  regs q hq hqs := by rw [State.reg_setReg, if_neg (ne_of_mem_of_not_mem hr hqs).symm, h.regs q hq hqs]
  flags f hf := by rw [State.flag_setReg _ _ _ hP, h.flags f hf]
  memory a ha := by rw [State.read_setReg, h.memory a ha]
  runControl := by simpa only [sameRunControl, State.running_setReg, State.haltRequested_setReg, State.run_setReg]
    using h.runControl
  wf hm := by rw [State.mem_setReg, h.wf hm]
  cyc := by rw [State.cyc_setReg, h.cyc]
  freeCtr hd := by rw [State.freeCtr_setReg, h.freeCtr hd]

/-- The whole status register may be written where the flags outside the list keep their values. -/
theorem setStatus (h : Effect rs fs as d s u) {q : Byte} (hq : ∀ f, f ∉ fs → getFlag q f = u.flag f) :
    Effect rs fs as d s (u.setReg .P q) :=
  { h with
    regs := fun r hP hr => by rw [State.reg_setReg, if_neg hP, h.regs r hP hr]
    flags := fun f hf => (hq f hf).trans (h.flags f hf) }

theorem setFlag (h : Effect rs fs as d s u) {f : Flag} (b : Bool) (hf : f ∈ fs) : Effect rs fs as d s (u.setFlag f b) :=
  h.setStatus fun _ hg => getFlag_setFlag_other _ _ (ne_of_mem_of_not_mem hf hg).symm

theorem write (h : Effect rs fs as d s u) {a : Addr} (v : Byte) (ha : a ∈ as) : Effect rs fs as d s (u.write a v) :=
  { h with
    regs := fun r hP hr => (u.reg_write a v r).trans (h.regs r hP hr)
    memory := fun b hb => by rw [State.read_write_other _ _ (ne_of_mem_of_not_mem ha hb).symm, h.memory b hb]
    wf := fun hm => u.wf_write a v (h.wf hm) }

theorem drawn (h : Effect rs fs as d s u) (n : Nat) (hd : d) : Effect rs fs as d s (u.drawn n) :=
  { h with
    regs := fun r hP hr => (u.reg_drawn n r).trans (h.regs r hP hr)
    freeCtr := fun hn => absurd hd hn }

/-! #### The shared operations -/

theorem setZN (h : Effect rs fs as d s u) (v : Byte) (hZ : .Z ∈ fs) (hN : .N ∈ fs) : Effect rs fs as d s (u.setZN v) :=
  (h.setFlag _ hZ).setFlag _ hN

theorem load (h : Effect rs fs as d s u) {r : Reg} (v : Byte) (hr : r ∈ rs) (hP : r ≠ .P) (hZ : .Z ∈ fs) (hN : .N ∈ fs) :
    Effect rs fs as d s (u.load r v) :=
  (h.setReg v hr hP).setZN v hZ hN

theorem push (h : Effect rs fs as d s u) (v : Byte) (hr : .SP ∈ rs) (ha : stackAddr u.sp ∈ as) :
    Effect rs fs as d s (u.push v) :=
  (h.write v ha).setReg _ hr (by decide)

theorem pushWord (h : Effect rs fs as d s u) (w : Addr) (hr : .SP ∈ rs) (ha : stackAddr u.sp ∈ as)
    (hb : stackAddr (u.sp - 1) ∈ as) : Effect rs fs as d s (u.pushWord w) :=
  (h.push _ hr ha).push _ hr hb

theorem popped (h : Effect rs fs as d s u) (hr : .SP ∈ rs) : Effect rs fs as d s u.popped :=
  h.setReg _ hr (by decide)

theorem poppedWord (h : Effect rs fs as d s u) (hr : .SP ∈ rs) : Effect rs fs as d s u.poppedWord :=
  (h.popped hr).popped hr

/-- A pulled status leaves bits 4 and 5, which are the flags it does not list (R30). -/
theorem pulledStatus (h : Effect rs [.N, .V, .D, .I, .Z, .C] as d s u) (v : Byte) :
    Effect rs [.N, .V, .D, .I, .Z, .C] as d s (u.setReg .P (pulledStatus u.p v)) :=
  h.setStatus fun f hf => by
    rw [getFlag_pulledStatus, if_pos (by cases f <;> simp_all)]
    rfl

theorem takeBreak (h : Effect [.SP] [.I] as d s u) (ret : Addr) (h0 : stackAddr u.sp ∈ as)
    (h1 : stackAddr (u.sp - 1) ∈ as) (h2 : stackAddr (u.sp - 1 - 1) ∈ as) :
    Effect [.SP] [.I] as d s (u.takeBreak ret) :=
  (((h.pushWord ret (.head _) h0 h1).push _ (.head _) h2).setFlag true (.head _)).setPC _

theorem returnFromBreak (h : Effect [.SP] [.N, .V, .D, .I, .Z, .C] as d s u) :
    Effect [.SP] [.N, .V, .D, .I, .Z, .C] as d s u.returnFromBreak :=
  (((h.popped (.head _)).pulledStatus _).poppedWord (.head _)).setPC _

theorem compare (h : Effect rs [.N, .Z, .C] as d s u) (reg m : Byte) :
    Effect rs [.N, .Z, .C] as d s (u.compare reg m) :=
  h.setStatus fun f hf => by
    simp only [List.mem_cons, List.not_mem_nil, or_false, not_or] at hf
    obtain ⟨hN, hZ, hC⟩ := hf
    rw [getFlag_compareFlags, if_neg hN, if_neg hZ, if_neg hC]
    rfl

theorem bitFlags (h : Effect rs [.N, .V, .Z] as d s u) (a m : Byte) :
    Effect rs [.N, .V, .Z] as d s (u.setReg .P (bitFlags u.p a m)) :=
  h.setStatus fun f hf => by
    simp only [List.mem_cons, List.not_mem_nil, or_false, not_or] at hf
    obtain ⟨hN, hV, hZ⟩ := hf
    rw [getFlag_bitFlags, if_neg hV, if_neg hN, if_neg hZ]
    rfl

theorem modify (h : Effect rs [.N, .Z] [a] d s u) (r : Byte) : Effect rs [.N, .Z] [a] d s (u.modify a r) :=
  (h.write r (.head _)).setZN r (by simp) (by simp)

/-- Storing the result is an effect of its own: it writes A or a byte of memory, by the operand. -/
theorem putShift {o : ShiftOperand} (t : ShiftResult) (h : Effect rs [.N, .Z, .C] as d s (o.store u t.r)) :
    Effect rs [.N, .Z, .C] as d s (u.putShift o t) :=
  (h.setFlag _ (by simp)).setZN _ (by simp) (by simp)

theorem binaryResult (h : Effect [.A] [.N, .V, .Z, .C] as d s u) (t : AddResult) :
    Effect [.A] [.N, .V, .Z, .C] as d s (u.binaryResult t) :=
  ((h.load _ (by simp) (by simp) (by simp) (by simp)).setFlag _ (by simp)).setFlag _ (by simp)

theorem decimalResult (h : Effect [.A] [.N, .V, .Z, .C] as d s u) (t : Byte × Bool) (hd : d) :
    Effect [.A] [.N, .V, .Z, .C] as d s (u.decimalResult t) :=
  (((h.load _ (by simp) (by simp) (by simp) (by simp)).setFlag _ (by simp)).setFlag _ (by simp)).drawn 1 hd

theorem invalidDecimalResult (h : Effect [.A] [.N, .V, .Z, .C] as d s u) (hd : d) :
    Effect [.A] [.N, .V, .Z, .C] as d s u.invalidDecimalResult :=
  (((((h.setReg _ (by simp) (by simp)).setFlag _ (by simp)).setFlag _ (by simp)).setFlag _ (by simp)).setFlag _
    (by simp)).drawn 4 hd

/-- ADC draws free values only with D set (U2, U3). -/
theorem addWithCarry (h : Effect [.A] [.N, .V, .Z, .C] as d s u) (m : Byte) (hd : u.flag .D = true → d) :
    Effect [.A] [.N, .V, .Z, .C] as d s (u.addWithCarry m) := by
  unfold State.addWithCarry
  split
  · exact h.binaryResult _
  · next hD _ => exact h.decimalResult _ (hd hD)
  · next hD _ => exact h.invalidDecimalResult (hd hD)

/-- SBC draws free values only with D set (U2, U3). -/
theorem subtractWithBorrow (h : Effect [.A] [.N, .V, .Z, .C] as d s u) (m : Byte) (hd : u.flag .D = true → d) :
    Effect [.A] [.N, .V, .Z, .C] as d s (u.subtractWithBorrow m) := by
  unfold State.subtractWithBorrow
  split
  · exact h.binaryResult _
  · next hD _ => exact h.decimalResult _ (hd hD)
  · next hD _ => exact h.invalidDecimalResult (hd hD)

end Effect

/-- Where a branch goes and the cycles it adds, as one move of the program counter and one end of the step (R183). -/
theorem State.branch_eq_finish (s : State) (i : Instr) (off : Byte) (taken : Bool) :
    s.branch i off taken =
      (s.setPC (if taken then branchTarget (s.pastInstr i).pc off else (s.pastInstr i).pc)).finish i
        (if taken then if pageCrossed (s.pastInstr i).pc (branchTarget (s.pastInstr i).pc off) then 2 else 1 else 0) := by
  cases taken <;> rfl

/-- The instruction draws free values in this state: a decimal addition or subtraction (U2, U3). -/
def drawsFree (i : Instr) (s : State) : Prop := s.flag .D = true ∧ (i.mnemonic = .ADC ∨ i.mnemonic = .SBC)

/-- The instruction answers a next state: one that writes what its rows of the tables list, at the end of its
step. -/
def hasListedEffect (i : Instr) (s : State) : Prop :=
  ∃ u n, exec i s = .next (u.finish i n) ∧ Effect (regsWritten i) (flagsWritten i) (storedAt i s) (drawsFree i s) s u

theorem hasListedEffect_of_branch {i : Instr} {s : State} {off : Byte} {taken : Bool}
    (h : exec i s = .next (s.branch i off taken)) : hasListedEffect i s :=
  ⟨_, _, h.trans (congrArg _ (s.branch_eq_finish i off taken)), Effect.refl.setPC _⟩

/-- What an instruction can do, said once for every instruction (R21, R22, R27, R96). -/
theorem exec_hasListedEffect (i : Instr) (s : State) : hasListedEffect i s := by
  cases i with
  | lda | ldx | ldy | tax | tay | txa | tya | tsx | inx | iny | dex | dey | and | ora | eor =>
    exact ⟨_, _, rfl, Effect.pastInstr.load _ (.head _) (by decide) (.tail _ (.head _)) (.head _)⟩
  | sta | stx | sty => exact ⟨_, _, rfl, Effect.pastInstr.write _ (.head _)⟩
  | txs => exact ⟨_, _, rfl, Effect.pastInstr.setReg _ (.head _) (by decide)⟩
  | adc => exact ⟨_, _, rfl, Effect.pastInstr.addWithCarry _ fun hD => ⟨hD, .inl rfl⟩⟩
  | sbc => exact ⟨_, _, rfl, Effect.pastInstr.subtractWithBorrow _ fun hD => ⟨hD, .inr rfl⟩⟩
  | cmp | cpx | cpy => exact ⟨_, _, rfl, Effect.pastInstr.compare _ _⟩
  | inc | dec => exact ⟨_, _, rfl, Effect.pastInstr.modify _⟩
  | bit => exact ⟨_, _, rfl, Effect.pastInstr.bitFlags _ _⟩
  | asl o | lsr o | rol o | ror o =>
    cases o with
    | acc => exact ⟨_, _, rfl, Effect.putShift _ (Effect.pastInstr.setReg _ (.head _) (by decide))⟩
    | mem m =>
      refine ⟨_, _, rfl, Effect.putShift _ (Effect.pastInstr.write _ ?_)⟩
      rw [MemOperand_ea_pastInstr]
      exact .head _
  | jmp => exact ⟨_, _, rfl, Effect.refl.setPC _⟩
  | jsr => exact ⟨_, _, rfl, (Effect.pastInstr.pushWord _ (.head _) (.head _) (.tail _ (.head _))).setPC _⟩
  | rts => exact ⟨_, _, rfl, (Effect.refl.poppedWord (.head _)).setPC _⟩
  | bcc | bcs | beq | bne | bmi | bpl | bvc | bvs => exact hasListedEffect_of_branch rfl
  | pha | php => exact ⟨_, _, rfl, Effect.pastInstr.push _ (.head _) (.head _)⟩
  | pla =>
    exact ⟨_, _, rfl, (Effect.pastInstr.popped (.tail _ (.head _))).load _ (.head _) (by decide) (.tail _ (.head _))
      (.head _)⟩
  | plp => exact ⟨_, _, rfl, (Effect.pastInstr.popped (.head _)).pulledStatus _⟩
  | clc | sec | cli | sei | cld | sed | clv => exact ⟨_, _, rfl, Effect.pastInstr.setFlag _ (.head _)⟩
  | brk =>
    refine ⟨_, _, rfl, Effect.pastInstr.takeBreak _ (.head _) (.tail _ (.head _)) ?_⟩
    have hsp : s.sp - 1 - 1 = s.sp - 2 := by bv_omega
    exact .tail _ (.tail _ (hsp ▸ .head _))
  | rti => exact ⟨_, _, rfl, Effect.refl.returnFromBreak⟩
  | nop | und => exact ⟨_, _, rfl, Effect.pastInstr⟩

end Sys2Proof.Machine
end

section
/-! ### The frame of every instruction -/

namespace Sys2Proof.Machine

theorem Effect.finish {rs : List Reg} {fs : List Flag} {as : List Addr} {d : Prop} {s u : State}
    (h : Effect rs fs as d s u) (i : Instr) (n : Nat) : frame rs fs as s (u.finish i n) :=
  ⟨fun r hP hr => (u.reg_finish i n r).trans (h.regs r hP hr), h.flags, h.memory, h.runControl⟩

/-- A next state is the end of the step of a listed effect. -/
theorem effect_of_exec {i : Instr} {s t : State} (h : exec i s = .next t) :
    ∃ u n, t = u.finish i n ∧ Effect (regsWritten i) (flagsWritten i) (storedAt i s) (drawsFree i s) s u := by
  obtain ⟨u, n, hu, he⟩ := exec_hasListedEffect i s
  rw [hu, Host.Outcome.next.injEq] at h
  exact ⟨u, n, h.symm, he⟩

/-- Every instruction keeps what it does not list: registers, flags, bytes of memory and run control. -/
theorem exec_frame {i : Instr} {s t : State} (h : exec i s = .next t) :
    frame (regsWritten i) (flagsWritten i) (storedAt i s) s t := by
  obtain ⟨u, n, rfl, he⟩ := effect_of_exec h
  exact he.finish i n

/-- The cycle counter advances by the cycles the step returns (R33, R96). -/
theorem exec_cyc {i : Instr} {s t : State} (h : exec i s = .next t) : t.cyc = s.cyc + t.result.cycles := by
  obtain ⟨u, n, rfl, he⟩ := effect_of_exec h
  rw [State.cyc_finish, State.result_finish, he.cyc]

theorem exec_freeCtr {i : Instr} {s t : State} (h : exec i s = .next t) (hd : ¬ drawsFree i s) :
    t.freeCtr = s.freeCtr := by
  obtain ⟨u, n, rfl, he⟩ := effect_of_exec h
  exact he.freeCtr hd

/-- Every instruction keeps the canonical form of memory. -/
theorem exec_wf {i : Instr} {s t : State} (h : exec i s = .next t) (hm : Memory.wf s.mem = true) :
    Memory.wf t.mem = true := by
  obtain ⟨u, n, rfl, he⟩ := effect_of_exec h
  exact he.wf hm

/-! ### The flag table (R27) -/

/-- No instruction writes bits 4 and 5 of P (R30). -/
theorem B_U_not_mem_flagsWritten (i : Instr) : .B ∉ flagsWritten i ∧ .U ∉ flagsWritten i := by
  cases i <;> simp [flagsWritten]

theorem mem_of_I_mem_flagsWritten (i : Instr) (h : .I ∈ flagsWritten i) : i ∈ [.sei, .cli, .plp, .rti, .brk] := by
  cases i <;> simp [flagsWritten] at h ⊢

/-! ### Registers and flags that an instruction does not list -/

/-- Settles O44: the frame of `exec_frame`, and `exec_freeCtr`. -/
theorem onlyListedRegistersChange : Obligations.OnlyListedRegistersChange := by
  intro i s t h
  obtain ⟨hregs, -, -, hrun⟩ := exec_frame h
  exact ⟨hregs, hrun, fun hne => Decidable.byContradiction fun hd => hne (exec_freeCtr h hd)⟩

/-- Settles O45: the frame of `exec_frame`, and the rows of the flag table. -/
theorem onlyListedFlagsChange : Obligations.OnlyListedFlagsChange := by
  refine ⟨fun i s t h => ?_, B_U_not_mem_flagsWritten, mem_of_I_mem_flagsWritten⟩
  obtain ⟨-, hflags, -, -⟩ := exec_frame h
  exact hflags

end Sys2Proof.Machine
end

section
/-! ### Two states that agree on all that an instruction can read -/

namespace Sys2Proof.Machine

/-- The two states share what an instruction can read, the interrupt-disable flag apart: the registers, all flags
but I and bits 4 and 5 of P, memory, and the counter of free values. -/
structure Agree (s s' : State) : Prop where
  a : s'.a = s.a
  x : s'.x = s.x
  y : s'.y = s.y
  sp : s'.sp = s.sp
  pc : s'.pc = s.pc
  mem : s'.mem = s.mem
  freeCtr : s'.freeCtr = s.freeCtr
  flags : sameFlagsBut [.I, .B, .U] s s'

namespace Agree

variable {s s' : State}

/-! #### What is read -/

section Reads

variable (h : Agree s s')
include h

theorem flag {f : Flag} (hf : f ∉ [Flag.I, .B, .U] := by simp) : s'.flag f = s.flag f := h.flags f hf

theorem statusBit {f : Flag} (hf : f ∉ [Flag.I, .B, .U]) : getFlag s'.p f = getFlag s.p f := h.flags f hf

theorem read {a a' : Addr} (ha : a' = a) : s'.read a' = s.read a := by
  rw [State.read, State.read, h.mem, ha]

theorem readWord (a : Addr) : s'.readWord a = s.readWord a := by
  rw [State.readWord, State.readWord, h.read rfl, h.read rfl]

theorem pulled : s'.pulled = s.pulled := h.read (by rw [h.sp])

theorem pulledWord : s'.pulledWord = s.pulledWord := by
  rw [State.pulledWord_eq, State.pulledWord_eq, h.sp, h.read rfl, h.read rfl]

theorem zeroPagePointer {z z' : Byte} (hz : z' = z) : s'.zeroPagePointer z' = s.zeroPagePointer z := by
  rw [State.zeroPagePointer, State.zeroPagePointer, hz, h.read rfl, h.read rfl]

theorem base (m : MemOperand) : m.base s' = m.base s := by
  cases m with
  | zp | abs | absx | absy => rfl
  | zpx b => exact congrArg (fun v => zeroPage (b + v)) h.x
  | zpy b => exact congrArg (fun v => zeroPage (b + v)) h.y
  | indx b => exact h.zeroPagePointer (congrArg (b + ·) h.x)
  | indy => exact h.zeroPagePointer rfl

theorem index (m : MemOperand) : m.index s' = m.index s := by
  cases m with
  | zp | zpx | zpy | abs | indx => rfl
  | absx => exact h.x
  | absy | indy => exact h.y

theorem ea (m : MemOperand) : m.ea s' = m.ea s := by
  rw [MemOperand.ea, MemOperand.ea, h.base, h.index]

theorem readEa (m : MemOperand) : s'.read (m.ea s') = s.read (m.ea s) := h.read (h.ea m)

theorem value (o : ReadOperand) : o.value s' = o.value s := by
  cases o with
  | imm => rfl
  | mem m => exact h.readEa m

theorem crossed (m : MemOperand) : m.crossed s' = m.crossed s := by
  rw [MemOperand.crossed, MemOperand.crossed, h.base, h.ea]

theorem extra (o : ReadOperand) : o.extra s' = o.extra s := by
  cases o with
  | imm => rfl
  | mem m => simp only [ReadOperand.extra, h.crossed]

theorem shiftValue (o : ShiftOperand) : o.value s' = o.value s := by
  cases o with
  | acc => exact h.a
  | mem m => exact h.readEa m

theorem target (o : JumpOperand) : o.target s' = o.target s := by
  cases o with
  | abs => rfl
  | ind ptr => simp only [JumpOperand.target, State.indirectTarget, h.read rfl]

/-- The pushed status holds I beside the shared flags; bits 4 and 5 are not the register's (R29). -/
theorem pushedStatus (hI : s'.flag .I = s.flag .I) : pushedStatus s'.p = pushedStatus s.p := by
  apply status_ext
  intro f
  rw [getFlag_pushedStatus, getFlag_pushedStatus]
  split
  · rfl
  · next hBU =>
    rw [not_or] at hBU
    by_cases hf : f = .I
    · exact hf ▸ hI
    · exact h.flag (by simp [hf, hBU])

end Reads

/-! #### The single writes -/

theorem setPC (h : Agree s s') {t t' : Addr} (ht : t' = t) : Agree (s.setPC t) (s'.setPC t') := { h with pc := ht }

theorem pastInstr (h : Agree s s') {i : Instr} : Agree (s.pastInstr i) (s'.pastInstr i) :=
  h.setPC (congrArg (· + _) h.pc)

theorem setReg (h : Agree s s') {r : Reg} {v v' : Byte} (hr : r ≠ .P) (hv : v' = v) :
    Agree (s.setReg r v) (s'.setReg r v') := by
  cases r with
  | A => exact { h with a := hv }
  | X => exact { h with x := hv }
  | Y => exact { h with y := hv }
  | SP => exact { h with sp := hv }
  | P => exact absurd rfl hr

theorem setStatus (h : Agree s s') {q q' : Byte} (hq : ∀ f, f ∉ [Flag.I, .B, .U] → getFlag q' f = getFlag q f) :
    Agree (s.setReg .P q) (s'.setReg .P q') := { h with flags := hq }

theorem setFlag (h : Agree s s') {f : Flag} {b b' : Bool} (hb : b' = b) : Agree (s.setFlag f b) (s'.setFlag f b') :=
  h.setStatus fun g hg => by
    rw [getFlag_setFlag, getFlag_setFlag, hb, h.statusBit hg]

theorem write (h : Agree s s') {a a' : Addr} {v v' : Byte} (ha : a' = a) (hv : v' = v) :
    Agree (s.write a v) (s'.write a' v') :=
  { h with mem := by rw [State.mem_write, State.mem_write, h.mem, ha, hv] }

theorem drawn (h : Agree s s') {n : Nat} : Agree (s.drawn n) (s'.drawn n) :=
  { h with freeCtr := congrArg (· + n) h.freeCtr }

/-! #### The shared operations -/

theorem setZN (h : Agree s s') {v v' : Byte} (hv : v' = v) : Agree (s.setZN v) (s'.setZN v') :=
  (h.setFlag (hv ▸ rfl)).setFlag (hv ▸ rfl)

theorem load (h : Agree s s') {r : Reg} {v v' : Byte} (hr : r ≠ .P) (hv : v' = v) : Agree (s.load r v) (s'.load r v') :=
  (h.setReg hr hv).setZN hv

theorem push (h : Agree s s') {v v' : Byte} (hv : v' = v) : Agree (s.push v) (s'.push v') :=
  (h.write (congrArg stackAddr h.sp) hv).setReg (by decide) (congrArg (· - 1) h.sp)

theorem pushWord (h : Agree s s') {w w' : Addr} (hw : w' = w) : Agree (s.pushWord w) (s'.pushWord w') :=
  (h.push (congrArg hi hw)).push (congrArg lo hw)

theorem popped (h : Agree s s') : Agree s.popped s'.popped :=
  h.setReg (by decide) (congrArg (· + 1) h.sp)

theorem poppedWord (h : Agree s s') : Agree s.poppedWord s'.poppedWord := h.popped.popped

theorem pulledStatus (h : Agree s s') {v v' : Byte} (hv : v' = v) :
    Agree (s.setReg .P (pulledStatus s.p v)) (s'.setReg .P (pulledStatus s'.p v')) :=
  h.setStatus fun f hf => by
    rw [getFlag_pulledStatus, getFlag_pulledStatus, hv, h.statusBit hf]

theorem takeBreak (h : Agree s s') (hI : s'.flag .I = s.flag .I) {ret ret' : Addr} (hr : ret' = ret) :
    Agree (s.takeBreak ret) (s'.takeBreak ret') :=
  have hpushed := ((h.pushWord hr).push (h.pushedStatus hI)).setFlag (f := .I) (rfl : true = true)
  hpushed.setPC (hpushed.readWord _)

theorem returnFromBreak (h : Agree s s') : Agree s.returnFromBreak s'.returnFromBreak :=
  have hstatus := h.popped.pulledStatus h.pulled
  hstatus.poppedWord.setPC hstatus.pulledWord

theorem compare (h : Agree s s') {reg reg' m m' : Byte} (hreg : reg' = reg) (hm : m' = m) :
    Agree (s.compare reg m) (s'.compare reg' m') :=
  h.setStatus fun f hf => by
    rw [getFlag_compareFlags, getFlag_compareFlags, hreg, hm, h.statusBit hf]

theorem bitFlags (h : Agree s s') {a a' m m' : Byte} (ha : a' = a) (hm : m' = m) :
    Agree (s.setReg .P (bitFlags s.p a m)) (s'.setReg .P (bitFlags s'.p a' m')) :=
  h.setStatus fun f hf => by
    rw [getFlag_bitFlags, getFlag_bitFlags, ha, hm, h.statusBit hf]

theorem modify (h : Agree s s') {a a' : Addr} {r r' : Byte} (ha : a' = a) (hr : r' = r) :
    Agree (s.modify a r) (s'.modify a' r') :=
  (h.write ha hr).setZN hr

theorem putShift (h : Agree s s') (o : ShiftOperand) {t t' : ShiftResult} (ht : t' = t) :
    Agree (s.putShift o t) (s'.putShift o t') := by
  have hstore : Agree (o.store s t.r) (o.store s' t'.r) := by
    cases o with
    | acc => exact h.setReg (r := .A) (by decide) (congrArg _ ht)
    | mem m => exact h.write (h.ea m) (congrArg _ ht)
  exact (hstore.setFlag (congrArg _ ht)).setZN (congrArg _ ht)

theorem binaryResult (h : Agree s s') (t : AddResult) : Agree (s.binaryResult t) (s'.binaryResult t) :=
  ((h.load (r := .A) (by decide) rfl).setFlag rfl).setFlag rfl

/-- The two states draw the same free values, their counters being the same. -/
theorem decimalResult (h : Agree s s') (t : Byte × Bool) : Agree (s.decimalResult t) (s'.decimalResult t) :=
  (((h.load (r := .A) (by decide) rfl).setFlag rfl).setFlag (by rw [h.freeCtr])).drawn

/-- The two states draw the same free values, their counters being the same. -/
theorem invalidDecimalResult (h : Agree s s') : Agree s.invalidDecimalResult s'.invalidDecimalResult :=
  (((((h.setReg (r := .A) (by decide) (by rw [h.freeCtr])).setFlag (by rw [h.freeCtr])).setFlag (by rw [h.freeCtr])).setFlag
    (by rw [h.freeCtr])).setFlag (by rw [h.freeCtr])).drawn

theorem addWithCarry (h : Agree s s') {m m' : Byte} (hm : m' = m) : Agree (s.addWithCarry m) (s'.addWithCarry m') := by
  simp only [State.addWithCarry, h.flag (f := .D), h.flag (f := .C), h.a, hm]
  split
  · exact h.binaryResult _
  · exact h.decimalResult _
  · exact h.invalidDecimalResult

theorem subtractWithBorrow (h : Agree s s') {m m' : Byte} (hm : m' = m) :
    Agree (s.subtractWithBorrow m) (s'.subtractWithBorrow m') := by
  simp only [State.subtractWithBorrow, h.flag (f := .D), h.flag (f := .C), h.a, hm]
  split
  · exact h.binaryResult _
  · exact h.decimalResult _
  · exact h.invalidDecimalResult

end Agree

/-! ### Every instruction acts alike on states that agree -/

/-- In both states the instruction answers a next state, after the same cycles, and the next states agree. -/
def actsAlike (i : Instr) (s s' : State) : Prop :=
  ∃ u u' n, exec i s = .next (u.finish i n) ∧ exec i s' = .next (u'.finish i n) ∧ Agree u u'

theorem actsAlike_of_branch {i : Instr} {s s' : State} {off : Byte} {taken taken' : Bool} (h : Agree s s')
    (hs : exec i s = .next (s.branch i off taken)) (hs' : exec i s' = .next (s'.branch i off taken'))
    (ht : taken' = taken) : actsAlike i s s' := by
  rw [State.branch_eq_finish] at hs hs'
  rw [ht, h.pastInstr.pc] at hs'
  exact ⟨_, _, _, hs, hs', h.setPC rfl⟩

/-- An instruction that pays for a page crossing pays the same in both states. -/
theorem actsAlike_of_extra {i : Instr} {o : ReadOperand} {s s' u u' : State} (h : Agree s s')
    (hs : exec i s = .next (u.finish i (o.extra s))) (hs' : exec i s' = .next (u'.finish i (o.extra s')))
    (hu : Agree u u') : actsAlike i s s' :=
  ⟨u, u', o.extra s, hs, h.extra o ▸ hs', hu⟩

/-- What an instruction does is determined by what the two states share, and by I for PHP and BRK alone. -/
theorem exec_actsAlike {i : Instr} {s s' : State} (h : Agree s s')
    (hI : i = .php ∨ i = .brk → s'.flag .I = s.flag .I) : actsAlike i s s' := by
  cases i with
  | lda o | ldx o | ldy o => exact actsAlike_of_extra h rfl rfl (h.pastInstr.load (by decide) (h.value o))
  | sta m => exact ⟨_, _, _, rfl, rfl, h.pastInstr.write (h.ea m) h.a⟩
  | stx m => exact ⟨_, _, _, rfl, rfl, h.pastInstr.write (h.ea m) h.x⟩
  | sty m => exact ⟨_, _, _, rfl, rfl, h.pastInstr.write (h.ea m) h.y⟩
  | tax | tay => exact ⟨_, _, _, rfl, rfl, h.pastInstr.load (by decide) h.a⟩
  | txa => exact ⟨_, _, _, rfl, rfl, h.pastInstr.load (by decide) h.x⟩
  | tya => exact ⟨_, _, _, rfl, rfl, h.pastInstr.load (by decide) h.y⟩
  | tsx => exact ⟨_, _, _, rfl, rfl, h.pastInstr.load (by decide) h.sp⟩
  | txs => exact ⟨_, _, _, rfl, rfl, h.pastInstr.setReg (by decide) h.x⟩
  | adc o => exact actsAlike_of_extra h rfl rfl (h.pastInstr.addWithCarry (h.value o))
  | sbc o => exact actsAlike_of_extra h rfl rfl (h.pastInstr.subtractWithBorrow (h.value o))
  | cmp o => exact actsAlike_of_extra h rfl rfl (h.pastInstr.compare h.a (h.value o))
  | cpx o => exact actsAlike_of_extra h rfl rfl (h.pastInstr.compare h.x (h.value o))
  | cpy o => exact actsAlike_of_extra h rfl rfl (h.pastInstr.compare h.y (h.value o))
  | inc m | dec m => exact ⟨_, _, _, rfl, rfl, h.pastInstr.modify (h.ea m) (by rw [h.readEa])⟩
  | inx | dex => exact ⟨_, _, _, rfl, rfl, h.pastInstr.load (by decide) (by rw [h.x])⟩
  | iny | dey => exact ⟨_, _, _, rfl, rfl, h.pastInstr.load (by decide) (by rw [h.y])⟩
  | and o | ora o | eor o =>
    exact actsAlike_of_extra h rfl rfl (h.pastInstr.load (by decide) (by rw [h.a, h.value]))
  | bit m => exact ⟨_, _, _, rfl, rfl, h.pastInstr.bitFlags h.a (h.readEa m)⟩
  | asl o | lsr o => exact ⟨_, _, _, rfl, rfl, h.pastInstr.putShift o (by rw [h.shiftValue])⟩
  | rol o | ror o => exact ⟨_, _, _, rfl, rfl, h.pastInstr.putShift o (by rw [h.shiftValue, h.flag])⟩
  | jmp o => exact ⟨_, _, _, rfl, rfl, h.setPC (h.target o)⟩
  | jsr => exact ⟨_, _, _, rfl, rfl, (h.pastInstr.pushWord (by rw [h.pastInstr.pc])).setPC rfl⟩
  | rts => exact ⟨_, _, _, rfl, rfl, h.poppedWord.setPC (by rw [h.pulledWord])⟩
  | bcc | bcs | beq | bne | bmi | bpl | bvc | bvs => exact actsAlike_of_branch h rfl rfl (by rw [h.flag])
  | pha => exact ⟨_, _, _, rfl, rfl, h.pastInstr.push h.a⟩
  | pla => exact ⟨_, _, _, rfl, rfl, h.pastInstr.popped.load (by decide) h.pulled⟩
  | php => exact ⟨_, _, _, rfl, rfl, h.pastInstr.push (h.pushedStatus (hI (.inl rfl)))⟩
  | plp => exact ⟨_, _, _, rfl, rfl, h.pastInstr.popped.pulledStatus h.pulled⟩
  | clc | sec | cli | sei | cld | sed | clv => exact ⟨_, _, _, rfl, rfl, h.pastInstr.setFlag rfl⟩
  | brk => exact ⟨_, _, _, rfl, rfl, h.pastInstr.takeBreak (hI (.inr rfl)) (by rw [h.pastInstr.pc])⟩
  | rti => exact ⟨_, _, _, rfl, rfl, h.returnFromBreak⟩
  | nop | und => exact ⟨_, _, _, rfl, rfl, h.pastInstr⟩

end Sys2Proof.Machine
end

section
/-! ### Non-interference: what a step cannot read -/

namespace Sys2Proof.Machine

theorem Agree.finish {u u' : State} (h : Agree u u') {i : Instr} {n : Nat} : Agree (u.finish i n) (u'.finish i n) :=
  ⟨h.a, h.x, h.y, h.sp, h.pc, h.mem, h.freeCtr, h.flags⟩

/-- States that agree differ in the status register, the cycle counter, run control and the step result alone. -/
theorem Agree.eq_with {t t' : State} (h : Agree t t') :
    t' = { t with p := t'.p, cyc := t'.cyc, running := t'.running, haltRequested := t'.haltRequested, run := t'.run,
                  result := t'.result } := by
  rw [← h.a, ← h.x, ← h.y, ← h.sp, ← h.pc, ← h.mem, ← h.freeCtr]

/-- A pulled status takes I from the pulled byte, and what is pulled is the same in states that agree (R30). -/
theorem getFlag_I_pulledStatus {s s' : State} (h : Agree s s') :
    getFlag (pulledStatus s'.p s'.pulled) .I = getFlag (pulledStatus s.p s.pulled) .I := by
  simp [getFlag_pulledStatus, h.pulled]

/-- An instruction that writes I writes the same value in both states. -/
theorem exec_flag_I {i : Instr} {s s' t t' : State} (h : Agree s s') (hi : .I ∈ flagsWritten i)
    (ht : exec i s = .next t) (ht' : exec i s' = .next t') : t'.flag .I = t.flag .I := by
  have hcases := mem_of_I_mem_flagsWritten i hi
  simp only [List.mem_cons, List.not_mem_nil, or_false] at hcases
  obtain rfl | rfl | rfl | rfl | rfl := hcases <;> cases ht <;> cases ht'
  · simp [State.flag_setFlag]
  · simp [State.flag_setFlag]
  · exact getFlag_I_pulledStatus h
  · exact getFlag_I_pulledStatus h
  · simp [State.flag_takeBreak]

/-- What an instruction writes to a flag is the same in states that agree. -/
theorem exec_flag_of_written {i : Instr} {s s' t t' : State} (h : Agree s s') (hagree : Agree t t')
    (ht : exec i s = .next t) (ht' : exec i s' = .next t') {f : Flag} (hf : f ∈ flagsWritten i) :
    t'.flag f = t.flag f := by
  by_cases hI : f = .I
  · subst hI
    exact exec_flag_I h hf ht ht'
  · obtain ⟨hB, hU⟩ := B_U_not_mem_flagsWritten i
    exact hagree.flag (by simp [hI, ne_of_mem_of_not_mem hf hB, ne_of_mem_of_not_mem hf hU])

/-- The next state in the second of two states that agree, from the next state in the first: the flags that the
instruction does not write, the cycle counter and run control are carried over from the second state. -/
theorem exec_of_agree {i : Instr} {s s' t : State} {q : Byte} (h : Agree s s')
    (hI : i = .php ∨ i = .brk → s'.flag .I = s.flag .I) (ht : exec i s = .next t)
    (hwritten : ∀ f, f ∈ flagsWritten i → getFlag q f = t.flag f)
    (hkept : ∀ f, f ∉ flagsWritten i → getFlag q f = s'.flag f) :
    exec i s' = .next { t with p := q, cyc := s'.cyc + t.result.cycles, running := s'.running,
                               haltRequested := s'.haltRequested, run := s'.run } := by
  obtain ⟨u, u', n, hu, hu', huu⟩ := exec_actsAlike h hI
  obtain rfl : t = u.finish i n := Host.Outcome.next.inj (ht.symm.trans hu)
  obtain ⟨-, hflags, -, hrunning, hhalt, hrun⟩ := exec_frame hu'
  have hp : (u'.finish i n).p = q := status_ext fun f => by
    by_cases hf : f ∈ flagsWritten i
    · exact (exec_flag_of_written h huu.finish hu hu' hf).trans (hwritten f hf).symm
    · exact (hflags f hf).trans (hkept f hf).symm
  rw [hu', huu.finish.eq_with, hp, exec_cyc hu', hrunning, hhalt, hrun]
  rfl

/-- Only the status register is another: the flags that the instruction does not write are carried over. -/
theorem exec_of_status {i : Instr} {s t : State} {p' q : Byte}
    (hp : ∀ f, f ∉ [Flag.I, .B, .U] → getFlag p' f = s.flag f)
    (hI : i = .php ∨ i = .brk → getFlag p' .I = s.flag .I) (ht : exec i s = .next t)
    (hwritten : ∀ f, f ∈ flagsWritten i → getFlag q f = t.flag f)
    (hkept : ∀ f, f ∉ flagsWritten i → getFlag q f = getFlag p' f) :
    exec i { s with p := p' } = .next { t with p := q } := by
  have hagree : Agree s { s with p := p' } := ⟨rfl, rfl, rfl, rfl, rfl, rfl, rfl, hp⟩
  obtain ⟨-, -, -, hrunning, hhalt, hrun⟩ := exec_frame ht
  rw [exec_of_agree hagree hI ht hwritten hkept, ← exec_cyc ht, ← hrunning, ← hhalt, ← hrun]

/-- Settles O46: the two states agree and share the whole status register. -/
theorem runControlAndCounterAreInvisible : Obligations.RunControlAndCounterAreInvisible := by
  intro s t c b h r res ht
  have hagree : Agree s { s with cyc := c, running := b, haltRequested := h, run := r, result := res } :=
    ⟨rfl, rfl, rfl, rfl, rfl, rfl, rfl, fun _ _ => rfl⟩
  obtain ⟨-, hflags, -, -⟩ := exec_frame ht
  exact exec_of_agree hagree (fun _ => rfl) ht (fun _ _ => rfl) hflags

/-- Bits 4 and 5 of one byte beside the other bits of another: as a pulled status keeps them. -/
theorem getFlag_withBitsFourAndFive (p x : Byte) (f : Flag) :
    getFlag ((p &&& 0xCF) ||| (x &&& 0x30)) f = if f = .B ∨ f = .U then getFlag x f else getFlag p f :=
  getFlag_pulledStatus x p f

/-- Settles O47: a status register that differs in bits 4 and 5 alone, which no instruction writes. -/
theorem statusBitsFourAndFiveAreUnobservable : Obligations.StatusBitsFourAndFiveAreUnobservable := by
  intro s t x ht
  obtain ⟨hB, hU⟩ := B_U_not_mem_flagsWritten s.fetchInstr
  obtain ⟨-, hflags, -, -⟩ := exec_frame ht
  refine exec_of_status (i := s.fetchInstr) (fun f hf => ?_) (fun _ => ?_) ht (fun f hf => ?_) (fun f hf => ?_)
  · rw [getFlag_withBitsFourAndFive, if_neg (by simp_all)]
    rfl
  · rw [getFlag_withBitsFourAndFive, if_neg (by decide)]
    rfl
  · have hBU : ¬ (f = .B ∨ f = .U) := not_or.mpr ⟨ne_of_mem_of_not_mem hf hB, ne_of_mem_of_not_mem hf hU⟩
    rw [getFlag_withBitsFourAndFive, if_neg hBU]
    rfl
  · rw [getFlag_withBitsFourAndFive, getFlag_withBitsFourAndFive]
    exact if_congr Iff.rfl rfl (hflags f hf)

/-- Settles O48: a status register that differs in I alone, which PHP and BRK alone read. -/
theorem interruptDisableIsReadByNothing : Obligations.InterruptDisableIsReadByNothing := by
  intro i s t b hphp hbrk ht
  obtain ⟨-, hflags, -, -⟩ := exec_frame ht
  have hother (f : Flag) (hf : f ∉ [Flag.I, .B, .U]) : getFlag (setFlag s.p .I b) f = s.flag f :=
    getFlag_setFlag_other _ _ (by simp_all)
  have hpush : i = .php ∨ i = .brk → getFlag (setFlag s.p .I b) .I = s.flag .I := by simp [hphp, hbrk]
  split
  case isTrue hI =>
    refine exec_of_status (q := t.p) hother hpush ht (fun _ _ => rfl) fun f hf => ?_
    rw [getFlag_setFlag_other _ _ (ne_of_mem_of_not_mem hI hf).symm]
    exact hflags f hf
  case isFalse hI =>
    refine exec_of_status (q := setFlag t.p .I b) hother hpush ht (fun f hf => ?_) fun f hf => ?_
    · exact getFlag_setFlag_other _ _ (ne_of_mem_of_not_mem hf hI)
    · rw [getFlag_setFlag, getFlag_setFlag]
      exact if_congr Iff.rfl rfl (hflags f hf)

end Sys2Proof.Machine
end

section
/-! ### The invariant -/

namespace Sys2Proof.Machine

theorem State.inv_iff {s : State} :
    s.inv = true ↔ Memory.wf s.mem = true ∧ s.statusBitsAsReset = true ∧ s.runConsistent = true := by
  simp [State.inv, and_assoc]

theorem State.statusBitsAsReset_reset : State.reset.statusBitsAsReset = true := by decide

/-- Settles O49: memory stays canonical, no instruction writes bits 4 and 5, and none writes run control. -/
theorem stepKeepsTheInvariant : Obligations.StepKeepsTheInvariant := by
  intro s t hinv ht
  obtain ⟨hm, hstatus, hcons⟩ := State.inv_iff.mp hinv
  obtain ⟨-, hflags, -, hrunning, -, hrun⟩ := exec_frame ht
  obtain ⟨hB, hU⟩ := B_U_not_mem_flagsWritten s.fetchInstr
  refine State.inv_iff.mpr ⟨exec_wf ht hm, ?_, ?_⟩
  · rwa [State.statusBitsAsReset, hflags _ hB, hflags _ hU]
  · rwa [State.runConsistent, hrunning, hrun]

/-- What touches neither P nor run control keeps the invariant if it keeps memory canonical. -/
theorem State.inv_of_memory {s t : State} (h : s.inv = true) (hm : Memory.wf s.mem = true → Memory.wf t.mem = true)
    (hp : t.p = s.p) (hrunning : t.running = s.running) (hrun : t.run = s.run) : t.inv = true := by
  obtain ⟨hmem, hstatus, hcons⟩ := State.inv_iff.mp h
  refine State.inv_iff.mpr ⟨hm hmem, ?_, ?_⟩
  · rwa [State.statusBitsAsReset, State.flag, State.flag, hp]
  · rwa [State.runConsistent, hrunning, hrun]

theorem State.inv_write {s : State} (h : s.inv = true) (a : Addr) (v : Byte) : (s.write a v).inv = true :=
  State.inv_of_memory h (s.wf_write a v) rfl rfl rfl

theorem State.inv_stopRun {s : State} (h : s.inv = true) : s.stopRun.inv = true := by
  obtain ⟨hmem, hstatus, -⟩ := State.inv_iff.mp h
  exact State.inv_iff.mpr ⟨hmem, hstatus, rfl⟩

/-- A run goes on only where one is in progress. -/
theorem State.inv_setRun {s : State} {r : RunProgress} (h : s.inv = true) (hr : s.run = some r) (r' : RunProgress) :
    (s.setRun r').inv = true := by
  obtain ⟨hmem, hstatus, hcons⟩ := State.inv_iff.mp h
  rw [State.runConsistent, hr] at hcons
  exact State.inv_iff.mpr ⟨hmem, hstatus, hcons⟩

/-! ### Host operations -/

/-- Registers and run control come from the state after reset; memory is emptied or left, and the draws of free
values are left (R311). -/
theorem hostReset_of_not_running {s : State} (z : Bool) (h : s.running = false) :
    hostReset z s = .ok { State.reset with mem := if z then [] else s.mem, freeCtr := s.freeCtr } := by
  rw [hostReset, if_neg (by simp [h])]
  cases z <;> rfl

theorem inv_hostReset {z : Bool} {s t : State} (h : s.inv = true) (ht : hostReset z s = .ok t) : t.inv = true := by
  obtain ⟨hmem, -, -⟩ := State.inv_iff.mp h
  cases hrun : s.running with
  | true =>
    rw [hostReset, if_pos hrun] at ht
    cases ht
  | false =>
    rw [hostReset_of_not_running z hrun] at ht
    cases ht
    refine State.inv_iff.mpr ⟨?_, State.statusBitsAsReset_reset, rfl⟩
    cases z with
    | false => exact hmem
    | true => exact Memory.wf_reset

theorem Memory.wf_writeBytes {m : Memory} {a : Nat} {bs : List Byte} (hlen : a + bs.length ≤ 65536)
    (h : Memory.wf m = true) : Memory.wf (Memory.writeBytes m a bs) = true := by
  induction bs generalizing m a with
  | nil => exact h
  | cons b bs ih =>
    rw [List.length_cons] at hlen
    exact ih (by omega) (Memory.wf_write b (by omega) h)

theorem inv_hostLoad {addr : Addr} {bs : List Byte} {s t : State} (h : s.inv = true) (ht : hostLoad addr bs s = .ok t) :
    t.inv = true := by
  unfold hostLoad at ht
  split at ht
  · cases ht
  · next hlen =>
    cases ht
    exact State.inv_of_memory h (Memory.wf_writeBytes (Nat.le_of_not_lt hlen)) rfl rfl rfl

theorem inv_hostStep {s t : State} {reply : HostReply} (h : s.inv = true) (ht : hostStep s = .ok (t, reply)) :
    t.inv = true := by
  unfold hostStep at ht
  split at ht
  · cases ht
  · split at ht
    · next hstep =>
      cases ht
      exact stepKeepsTheInvariant s t h hstep
    all_goals
      cases ht
      exact h

theorem inv_runStart {b : Bool} {s t : State} (h : s.inv = true) (ht : runStart b s = .ok t) : t.inv = true := by
  obtain ⟨hmem, hstatus, -⟩ := State.inv_iff.mp h
  unfold runStart at ht
  split at ht
  · cases ht
  · cases ht
    exact State.inv_iff.mpr ⟨hmem, hstatus, rfl⟩

theorem inv_hostWriteReg {r : HostReg} {v : Int} {s t : State} (hr : r ≠ .P) (h : s.inv = true)
    (ht : hostWriteReg r v s = .ok t) : t.inv = true := by
  cases r with
  | A | X | Y | SP | PC =>
    cases ht
    exact State.inv_of_memory h id rfl rfl rfl
  | P => exact absurd rfl hr
  | CYC => cases ht

theorem ok_of_withoutReply {e : Except HostError State} {t : State} {reply : HostReply}
    (h : withoutReply e = .ok (t, reply)) : e = .ok t := by
  cases e with
  | error => cases h
  | ok u => cases h; rfl

theorem inv_hostOp {op : HostOp} {s t : State} {reply : HostReply} (hop : ∀ v, op ≠ .writeReg .P v) (h : s.inv = true)
    (ht : hostOp op s = .ok (t, reply)) : t.inv = true := by
  cases op with
  | reset => exact inv_hostReset h (ok_of_withoutReply ht)
  | load => exact inv_hostLoad h (ok_of_withoutReply ht)
  | step => exact inv_hostStep h ht
  | run => exact inv_runStart h (ok_of_withoutReply ht)
  | writeReg r v => exact inv_hostWriteReg (fun hr => hop v (hr ▸ rfl)) h (ok_of_withoutReply ht)
  | halt =>
    cases ht
    exact State.inv_of_memory h id rfl rfl rfl
  | writeByte =>
    cases ht
    exact State.inv_write h _ _
  | writeWord =>
    cases ht
    exact State.inv_write (State.inv_write h _ _) _ _
  | readReg | readByte | readWord | assemble | disassemble =>
    cases ht
    exact h

/-! ### The transitions of a run -/

theorem inv_runTop {r : RunProgress} {s : State} (h : s.inv = true) (hr : s.run = some r) : (runTop r s).1.inv = true := by
  unfold runTop
  split
  · exact State.inv_stopRun (State.inv_of_memory h id rfl rfl rfl)
  · exact State.inv_setRun h hr _

theorem inv_runAfterStep {r : RunProgress} {t : State} (h : t.inv = true) (hr : t.run = some r) :
    (runAfterStep r t).1.inv = true := by
  unfold runAfterStep
  split
  · exact State.inv_stopRun h
  · exact State.inv_setRun h hr _

theorem inv_runInBatch {quota : Nat} {r : RunProgress} {s : State} (h : s.inv = true) (hr : s.run = some r) :
    (runInBatch quota r s).1.inv = true := by
  unfold runInBatch
  split
  · split
    · next t hstep =>
      obtain ⟨-, -, -, -, -, hrun⟩ := exec_frame hstep
      exact inv_runAfterStep (stepKeepsTheInvariant s t h hstep) (hrun.trans hr)
    all_goals exact State.inv_stopRun h
  · exact State.inv_setRun h hr _

theorem inv_runTickWith {quota : Nat} {s : State} (h : s.inv = true) : (runTickWith quota s).1.inv = true := by
  unfold runTickWith
  split
  · exact h
  · next r hr =>
    split
    · exact inv_runTop h hr
    · exact inv_runInBatch h hr
    · exact State.inv_setRun h hr _

/-- Settles O50: each host operation and each phase of a run keeps the invariant. -/
theorem hostAndRunKeepTheInvariant : Obligations.HostAndRunKeepTheInvariant :=
  ⟨fun _ _ _ _ hop h ht => inv_hostOp hop h ht, fun _ _ h => inv_runTickWith h⟩

/-! ### Reset -/

/-- Settles O14: refused during a run, and otherwise the state of `hostReset_of_not_running`. -/
theorem resetGivesTheDocumentedState : Obligations.ResetGivesTheDocumentedState := by
  refine ⟨fun z s hrun => ?_, fun z s hrun => ?_, ?_⟩
  · rw [hostReset, if_pos hrun]
  · refine ⟨_, hostReset_of_not_running z hrun, rfl, rfl, rfl, rfl, rfl, rfl, rfl, rfl, rfl, fun a => ?_⟩
    cases z <;> rfl
  · exact ⟨rfl, rfl, rfl, rfl, rfl, rfl, rfl, rfl, rfl, fun _ => rfl⟩

/-- Settles O15: the parts of the invariant one by one; the reset gives the same record. -/
theorem resetStateMeetsTheInvariant : Obligations.ResetStateMeetsTheInvariant :=
  ⟨State.inv_iff.mpr ⟨Memory.wf_reset, State.statusBitsAsReset_reset, rfl⟩, rfl⟩

end Sys2Proof.Machine
end

section
/-! ### Access by the host -/

namespace Sys2Proof.Machine

/-- `u8` is reduction modulo 256 (R10). -/
theorem toNat_u8 (v : Int) : ((u8 v).toNat : Int) = v % 256 := by
  rw [u8, BitVec.toNat_ofInt]
  omega

/-- `u16` is reduction modulo 65536 (R10). -/
theorem toNat_u16 (v : Int) : ((u16 v).toNat : Int) = v % 65536 := by
  rw [u16, BitVec.toNat_ofInt]
  omega

theorem u16_add_one (a : Int) : u16 (a + 1) = u16 a + 1 := BitVec.ofInt_add a 1

theorem u16_emod (a : Int) : u16 (a % 65536) = u16 a := by
  apply BitVec.eq_of_toNat_eq
  have := toNat_u16 a
  have := toNat_u16 (a % 65536)
  omega

/-- A word written is read back, the second byte lying at another address (R52, R53). -/
theorem State.readWord_writeWord (s : State) (a : Addr) (v : Addr) : (s.writeWord a v).readWord a = v := by
  have hne : a ≠ a + 1 := by bv_omega
  rw [State.readWord, State.writeWord, State.read_write_same, State.read_write_other _ _ hne, State.read_write_same,
    word_hi_lo]

theorem State.read_writeWord_other (s : State) {a b : Addr} (v : Addr) (h0 : b ≠ a) (h1 : b ≠ a + 1) :
    (s.writeWord a v).read b = s.read b := by
  rw [State.writeWord, State.read_write_other _ _ h1, State.read_write_other _ _ h0]

theorem hostReadReg_write (s : State) (a : Addr) (v : Byte) (q : HostReg) :
    hostReadReg q (s.write a v) = hostReadReg q s := by
  cases q <;> rfl

theorem hostReadReg_of_hostWriteReg {s t : State} {r q : HostReg} {v : Int} (ht : hostWriteReg r v s = .ok t)
    (hq : q ≠ r) : hostReadReg q t = hostReadReg q s := by
  cases r with
  | A | X | Y | P | SP | PC =>
    cases ht
    cases q <;> simp [hostReadReg] at hq ⊢
  | CYC => cases ht

/-- A register written by the host reads back masked to its width (R36). -/
theorem hostReadReg_hostWriteReg_same (s : State) {r : HostReg} (v : Int) (hr : r ≠ .CYC) :
    ∃ t, hostWriteReg r v s = .ok t ∧ (hostReadReg r t : Int) = v % (if r = .PC then 65536 else 256) := by
  cases r with
  | A | X | Y | P | SP => exact ⟨_, rfl, toNat_u8 v⟩
  | PC => exact ⟨_, rfl, toNat_u16 v⟩
  | CYC => exact absurd rfl hr

/-- A register write touches neither memory nor run control (R36). -/
theorem hostWriteReg_frame {s t : State} {r : HostReg} {v : Int} (ht : hostWriteReg r v s = .ok t) :
    sameMemoryBut [] s t ∧ sameRunControl s t := by
  cases r with
  | A | X | Y | P | SP | PC =>
    cases ht
    exact ⟨fun _ _ => rfl, rfl, rfl, rfl⟩
  | CYC => cases ht

/-- Settles O17: reading back by `toNat_u8` and `toNat_u16`, the frames by the rules of `State.write`. -/
theorem hostAccessIsMasked : Obligations.HostAccessIsMasked := by
  refine ⟨fun s r v hr => ?_, fun _ _ => rfl, fun s a v => ?_⟩
  · obtain ⟨t, ht, hread⟩ := hostReadReg_hostWriteReg_same s v hr
    exact ⟨t, ht, hread, fun q hq => hostReadReg_of_hostWriteReg ht hq, hostWriteReg_frame ht⟩
  refine ⟨?_, ?_, ?_, ?_, fun q => ⟨?_, ?_⟩, ⟨rfl, rfl, rfl⟩, ⟨rfl, rfl, rfl⟩, fun b hb => ?_, fun b hb => ?_⟩
  · rw [hostReadByte, hostWriteByte, State.read_write_same, toNat_u8]
  · rw [hostReadWord, hostWriteWord, State.readWord_writeWord, toNat_u16]
  · rw [hostReadByte, hostReadByte, u16_emod]
  · rw [hostReadWord, State.readWord, toNat_word, hostReadByte, hostReadByte, u16_add_one, Nat.mul_comm]
  · exact hostReadReg_write _ _ _ q
  · exact (hostReadReg_write _ _ _ q).trans (hostReadReg_write _ _ _ q)
  · exact s.read_write_other _ (by simpa using hb)
  · rw [u16_add_one] at hb
    simp only [List.mem_cons, List.not_mem_nil, or_false, not_or] at hb
    exact s.read_writeWord_other _ hb.1 hb.2

end Sys2Proof.Machine
end

section
/-! ### Byte and word access -/

namespace Sys2Proof.Machine

/-- The low byte of a word written stays where it is: the high byte lies at another address (R53). -/
theorem State.read_writeWord_lo (s : State) (a v : Addr) : (s.writeWord a v).read a = lo v := by
  have hne : a ≠ a + 1 := by bv_omega
  rw [State.writeWord, State.read_write_other _ _ hne, State.read_write_same]

theorem State.read_writeWord_hi (s : State) (a v : Addr) : (s.writeWord a v).read (a + 1) = hi v :=
  State.read_write_same _ _ _

/-- Settles O11: the values by the rules of `State.write`, the frames as effects of one and of two writes. -/
theorem wordAccessIsLittleEndian : Obligations.WordAccessIsLittleEndian := by
  refine ⟨fun s a => ?_, fun s a v => ?_, fun s a v => ?_⟩
  · rw [State.readWord, toNat_word, Nat.mul_comm]
  · have h : Effect [] [] [a] False s (s.write a v) := Effect.refl.write v (.head _)
    exact ⟨s.read_write_same a v, h.memory, h.regs, rfl, rfl⟩
  · have h : Effect [] [] [a, a + 1] False s (s.writeWord a v) :=
      (Effect.refl.write (lo v) (.head _)).write (hi v) (.tail _ (.head _))
    exact ⟨s.read_writeWord_lo a v, s.read_writeWord_hi a v, s.readWord_writeWord a v, h.memory, h.regs, rfl, rfl⟩

/-! ### The stack -/

/-- The stack location after an increment of SP, the wrap written in numbers (R22, R61). -/
theorem stackAddr_add_one (sp : Byte) : stackAddr (sp + 1) = BitVec.ofNat 16 (256 + (sp.toNat + 1) % 256) := by
  apply BitVec.eq_of_toNat_eq
  have h : BitVec.toNat (1 : Byte) = 1 := rfl
  rw [toNat_stackAddr, BitVec.toNat_add, BitVec.toNat_ofNat, h]
  omega

/-- A pull after a push returns the byte pushed (R60, R61). -/
theorem State.pulled_push (s : State) (v : Byte) : (s.push v).pulled = v := by
  rw [State.pulled_eq, State.sp_push, BitVec.sub_add_cancel, State.read_push, if_pos rfl]

/-- A pull after a push restores SP, also when SP wraps (R60, R61). -/
theorem State.sp_popped_push (s : State) (v : Byte) : (s.push v).popped.sp = s.sp := by
  rw [State.sp_popped, State.sp_push, BitVec.sub_add_cancel]

/-- Settles O13: the values by the rules of the stack, the frames as effects of a push and of a pull. -/
theorem pushAndPullKeepToPageOne : Obligations.PushAndPullKeepToPageOne := by
  refine ⟨fun s v => ?_, fun s => ?_, fun s v => ⟨s.pulled_push v, s.sp_popped_push v⟩⟩
  · have h : Effect [.SP] [] [stackAddr s.sp] False s (s.push v) := Effect.refl.push v (.head _) (.head _)
    refine ⟨toNat_stackAddr s.sp, ?_, h.memory, ?_, h.regs, rfl⟩
    · rw [State.read_push, if_pos rfl]
    · rw [State.sp_push]
      bv_omega
  · have h : Effect [.SP] [] [] False s s.popped := Effect.refl.popped (.head _)
    refine ⟨?_, ?_, h.regs, h.memory, rfl⟩
    · rw [State.pulled_eq, stackAddr_add_one]
    · rw [State.sp_popped]
      bv_omega

end Sys2Proof.Machine
end

section
/-! ### The canonical form of memory -/

namespace Sys2Proof.Machine

/-- Nothing below the bound of a canonical list is listed. -/
theorem Memory.read_of_lt_wfFrom {n a : Nat} {m : Memory} (h : Memory.wfFrom n m = true) (ha : a < n) :
    Memory.read m a = unlistedByte := by
  induction m generalizing n with
  | nil => rfl
  | cons c m ih =>
    obtain ⟨hn, -, -, htail⟩ := Memory.wfFrom_cons.mp h
    rw [Memory.read, if_neg (by omega), ih htail (by omega)]

/-- The first cell of a canonical list is the lowest address that reads as a stored byte. -/
theorem Memory.head_le_of_read_ne {n k a : Nat} {v : Byte} {m : Memory} (h : Memory.wfFrom n ((k, v) :: m) = true)
    (hr : Memory.read ((k, v) :: m) a ≠ unlistedByte) : k ≤ a := by
  obtain ⟨-, hk, hv, htail⟩ := Memory.wfFrom_cons.mp h
  have hfrom : Memory.wfFrom k ((k, v) :: m) = true := Memory.wfFrom_cons.mpr ⟨le_rfl, hk, hv, htail⟩
  exact Nat.le_of_not_lt fun ha => hr (Memory.read_of_lt_wfFrom hfrom ha)

theorem Memory.read_head (k : Nat) (v : Byte) (m : Memory) : Memory.read ((k, v) :: m) k = v := if_pos rfl

/-- Canonical lists that read alike have the same first cell, and the induction goes on behind it: the tails read
alike at its address too, where neither lists anything. -/
theorem Memory.eq_of_read_eq {n n' : Nat} {m m' : Memory} (h : Memory.wfFrom n m = true)
    (h' : Memory.wfFrom n' m' = true) (hread : ∀ a < 65536, Memory.read m a = Memory.read m' a) : m = m' := by
  induction m generalizing n n' m' with
  | nil =>
    cases m' with
    | nil => rfl
    | cons c' m' =>
      obtain ⟨-, hk', hv', -⟩ := Memory.wfFrom_cons.mp h'
      exact absurd ((hread _ hk').trans (Memory.read_head ..)).symm hv'
  | cons c m ih =>
    obtain ⟨k, v⟩ := c
    obtain ⟨-, hk, hv, htail⟩ := Memory.wfFrom_cons.mp h
    have hkv := (hread k hk).symm.trans (Memory.read_head k v m)
    cases m' with
    | nil => exact absurd hkv.symm hv
    | cons c' m' =>
      obtain ⟨k', v'⟩ := c'
      obtain ⟨-, hk', hv', htail'⟩ := Memory.wfFrom_cons.mp h'
      have hkv' := (hread k' hk').trans (Memory.read_head k' v' m')
      obtain rfl : k = k' := Nat.le_antisymm (Memory.head_le_of_read_ne h (hkv'.trans_ne hv'))
        (Memory.head_le_of_read_ne h' (hkv.trans_ne hv))
      obtain rfl : v' = v := (Memory.read_head ..).symm.trans hkv
      refine congrArg _ (ih htail htail' fun a ha => ?_)
      by_cases hak : a = k
      · rw [Memory.read_of_lt_wfFrom htail (by omega), Memory.read_of_lt_wfFrom htail' (by omega)]
      · simpa only [Memory.read, if_neg (Ne.symm hak)] using hread a ha

/-- Settles O12: canonical lists that read alike are equal, by induction on both. -/
theorem canonicalMemoriesReadingAlikeAreEqual : Obligations.CanonicalMemoriesReadingAlikeAreEqual :=
  fun _ _ h h' hread => Memory.eq_of_read_eq h h' fun a ha => by
    simpa only [BitVec.toNat_ofNat, Nat.mod_eq_of_lt ha] using hread (BitVec.ofNat 16 a)

/-! ### Load -/

/-- Byte `k` of the list is stored at the address plus `k`, and every other cell is left (R66). -/
theorem Memory.read_writeBytes (m : Memory) (a : Nat) (bs : List Byte) (b : Nat) :
    Memory.read (Memory.writeBytes m a bs) b =
      if a ≤ b ∧ b < a + bs.length then bs.getD (b - a) 0 else Memory.read m b := by
  induction bs generalizing m a with
  | nil => rw [Memory.writeBytes, List.length_nil, if_neg (by omega)]
  | cons v bs ih =>
    rw [Memory.writeBytes, ih, Memory.read_write, List.length_cons]
    by_cases hb : b = a
    · subst hb
      rw [if_neg (by omega), if_pos rfl, if_pos (by omega), Nat.sub_self, List.getD_cons_zero]
    · rw [if_neg hb]
      refine ite_congr (propext (by omega)) (fun hin => ?_) fun _ => rfl
      rw [show b - a = b - (a + 1) + 1 by omega, List.getD_cons_succ]

/-- `Load` writes memory alone (R66). -/
theorem hostLoad_of_le {s : State} {addr : Addr} {bs : List Byte} (h : addr.toNat + bs.length ≤ 65536) :
    hostLoad addr bs s = .ok { s with mem := Memory.writeBytes s.mem addr.toNat bs } :=
  if_neg (Nat.not_lt.mpr h)

/-- Settles O16: the cells by `Memory.read_writeBytes`; memory is the only field that is written. -/
theorem loadStoresTheBytesOrRefuses : Obligations.LoadStoresTheBytesOrRefuses := by
  refine ⟨fun s addr bs h => if_pos h, fun s addr bs h => ⟨_, hostLoad_of_le h, fun k hk => ?_, fun a ha => ?_, ?_⟩⟩
  · have hlt : addr.toNat + k < 65536 := by omega
    rw [State.read, Memory.read_writeBytes, BitVec.toNat_ofNat, Nat.mod_eq_of_lt hlt, if_pos (by omega),
      Nat.add_sub_cancel_left]
  · rw [State.read, Memory.read_writeBytes, if_neg (by omega), State.read]
  · exact ⟨fun r _ _ => by cases r <;> rfl, rfl, rfl, rfl, rfl, rfl, rfl⟩

/-! ### The frame of memory -/

/-- Settles O43: the memory part of the frame of every instruction. -/
theorem onlyListedBytesOfMemoryChange : Obligations.OnlyListedBytesOfMemoryChange := by
  intro i s t h
  obtain ⟨-, -, hmemory, -⟩ := exec_frame h
  exact hmemory

end Sys2Proof.Machine
end

section
/-! ### Operand forms, by their mode and their operand bytes -/

namespace Sys2Proof

theorem word_eq_iff {h l : Byte} {w : Addr} : word h l = w ↔ lo w = l ∧ hi w = h := by
  constructor
  · rintro rfl
    exact ⟨lo_word h l, hi_word h l⟩
  · rintro ⟨rfl, rfl⟩
    exact word_hi_lo w

theorem memOperandOf_mode_eq_some {m : MemOperand} {b1 b2 : Byte} :
    memOperandOf m.mode b1 b2 = some m ↔ m.bytes = [b1, b2].take m.mode.operandLength := by
  cases m with
  | zp | zpx | zpy | indx | indy =>
    simp [memOperandOf, MemOperand.mode, MemOperand.bytes, Mode.operandLength, eq_comm (a := b1)]
  | abs | absx | absy => simp [memOperandOf, MemOperand.mode, MemOperand.bytes, Mode.operandLength, word_eq_iff]

theorem memOperandOf_eq_some {mode : Mode} {b1 b2 : Byte} {m : MemOperand} :
    memOperandOf mode b1 b2 = some m ↔ m.mode = mode ∧ m.bytes = [b1, b2].take mode.operandLength := by
  constructor
  · intro h
    obtain rfl := memOperandOf_mode h
    exact ⟨rfl, memOperandOf_mode_eq_some.mp h⟩
  · rintro ⟨rfl, hb⟩
    exact memOperandOf_mode_eq_some.mpr hb

theorem MemOperand.mode_ne (m : MemOperand) : m.mode ≠ .IMM ∧ m.mode ≠ .ACC := by
  cases m <;> simp [MemOperand.mode]

theorem readOperandOf_eq_some {mode : Mode} {b1 b2 : Byte} {o : ReadOperand} :
    readOperandOf mode b1 b2 = some o ↔ o.mode = mode ∧ o.bytes = [b1, b2].take mode.operandLength := by
  by_cases hmode : mode = .IMM
  · subst hmode
    cases o with
    | imm v => simp [readOperandOf, ReadOperand.mode, ReadOperand.bytes, Mode.operandLength, eq_comm]
    | mem m => simp [readOperandOf, ReadOperand.mode, m.mode_ne]
  · cases o with
    | imm v => simp [readOperandOf, ReadOperand.mode, hmode, Ne.symm hmode]
    | mem m => simp [readOperandOf, hmode, memOperandOf_eq_some, ReadOperand.mode, ReadOperand.bytes]

theorem shiftOperandOf_eq_some {mode : Mode} {b1 b2 : Byte} {o : ShiftOperand} :
    shiftOperandOf mode b1 b2 = some o ↔ o.mode = mode ∧ o.bytes = [b1, b2].take mode.operandLength := by
  by_cases hmode : mode = .ACC
  · subst hmode
    cases o with
    | acc => simp [shiftOperandOf, ShiftOperand.mode, ShiftOperand.bytes, Mode.operandLength]
    | mem m => simp [shiftOperandOf, ShiftOperand.mode, m.mode_ne]
  · cases o with
    | acc => simp [shiftOperandOf, ShiftOperand.mode, hmode, Ne.symm hmode]
    | mem m => simp [shiftOperandOf, hmode, memOperandOf_eq_some, ShiftOperand.mode, ShiftOperand.bytes]

theorem jumpOperandOf_eq_some {mode : Mode} {b1 b2 : Byte} {o : JumpOperand} :
    jumpOperandOf mode b1 b2 = some o ↔ o.mode = mode ∧ o.bytes = [b1, b2].take mode.operandLength := by
  cases mode with
  | ABS | IND => cases o <;> simp [jumpOperandOf, JumpOperand.mode, JumpOperand.bytes, Mode.operandLength, word_eq_iff]
  | _ => cases o <;> simp [jumpOperandOf, JumpOperand.mode]

/-- The operand bytes of an instruction are the first of `b1`, `b2`, as many as its mode asks for (R81). -/
def Instr.hasOperandBytes (i : Instr) (b1 b2 : Byte) : Prop := i.operandBytes = [b1, b2].take i.mode.operandLength

/-- An instruction is read back from its mnemonic, its mode and its operand bytes. -/
theorem instrOf_of_operandBytes {i : Instr} {b1 b2 : Byte} (hU : i.mnemonic ≠ .UND) (h : i.hasOperandBytes b1 b2) :
    instrOf i.mnemonic i.mode b1 b2 = some i := by
  cases i with
  | lda | ldx | ldy | adc | sbc | cmp | cpx | cpy | and | ora | eor =>
    exact congrArg (Option.map _) (readOperandOf_eq_some.mpr ⟨rfl, h⟩)
  | sta | stx | sty | inc | dec | bit => exact congrArg (Option.map _) (memOperandOf_eq_some.mpr ⟨rfl, h⟩)
  | asl | lsr | rol | ror => exact congrArg (Option.map _) (shiftOperandOf_eq_some.mpr ⟨rfl, h⟩)
  | jmp => exact congrArg (Option.map _) (jumpOperandOf_eq_some.mpr ⟨rfl, h⟩)
  | jsr t =>
    cases h
    exact congrArg (some <| Instr.jsr ·) (word_hi_lo t)
  | bcc | bcs | beq | bne | bmi | bpl | bvc | bvs =>
    cases h
    rfl
  | und => exact absurd rfl hU
  | _ => rfl

/-- The operand bytes of what is read from a mnemonic and a mode are the bytes given. -/
theorem hasOperandBytes_of_instrOf {mn : Mnemonic} {mode : Mode} {b1 b2 : Byte} {i : Instr}
    (h : instrOf mn mode b1 b2 = some i) : i.hasOperandBytes b1 b2 := by
  cases mn with
  | LDA | LDX | LDY | ADC | SBC | CMP | CPX | CPY | AND | ORA | EOR =>
    obtain ⟨o, ho, rfl⟩ := Option.map_eq_some_iff.mp h
    obtain ⟨rfl, hb⟩ := readOperandOf_eq_some.mp ho
    exact hb
  | STA | STX | STY | INC | DEC | BIT =>
    obtain ⟨o, ho, rfl⟩ := Option.map_eq_some_iff.mp h
    obtain ⟨rfl, hb⟩ := memOperandOf_eq_some.mp ho
    exact hb
  | ASL | LSR | ROL | ROR =>
    obtain ⟨o, ho, rfl⟩ := Option.map_eq_some_iff.mp h
    obtain ⟨rfl, hb⟩ := shiftOperandOf_eq_some.mp ho
    exact hb
  | JMP =>
    obtain ⟨o, ho, rfl⟩ := Option.map_eq_some_iff.mp h
    obtain ⟨rfl, hb⟩ := jumpOperandOf_eq_some.mp ho
    exact hb
  | JSR =>
    cases h
    exact congrArg₂ (fun l h => [l, h]) (lo_word b2 b1) (hi_word b2 b1)
  | UND => cases h
  | _ =>
    cases h
    rfl

end Sys2Proof
end

section
/-! ### The opcode table and the opcode groups are inverse -/

namespace Sys2Proof

open Sys2Proof.Machine

/-- The table entry an instruction has at an opcode byte; the `+` mark as R99 says it. -/
def Instr.entry (op : Byte) (i : Instr) : TableEntry :=
  ⟨op, i.mnemonic, i.mode, baseCycles i, (paysPageCross i).isSome && [Mode.ABSX, .ABSY, .INDY].contains i.mode⟩

/-! #### The 256 bytes and the 57 mnemonics, looked at one by one -/

/-- Every defined entry is that of the instruction it asks for, with operand bytes 0. -/
theorem tableEntry_eq_entry :
    ∀ op : Byte, ((tableEntry op).all fun e => (instrOf e.mn e.mode 0 0).map (Instr.entry op) == some e) = true := by
  decide

theorem tableEntry_opcodeFor :
    ∀ op : Byte, ((tableEntry op).all fun e => opcodeFor e.mn e.mode.slot == some op) = true := by
  decide

/-- R103 lists the bytes without an entry, in rising order. -/
theorem undefinedOpcodes_eq :
    undefinedOpcodes = ((List.range 256).map (BitVec.ofNat 8)).filter fun op => (tableEntry op).isNone := by
  decide +kernel

theorem opcodeGroup_table (mn : Mnemonic) :
    ∀ r ∈ opcodeGroup mn, tableMnemonic r.2 = mn ∧ (tableMode r.2).slot = r.1 := by
  cases mn <;> decide

/-- Every supported mode of a mnemonic has an opcode byte, and the table gives the byte that mnemonic and mode. -/
theorem opcodeFor_table {mn : Mnemonic} (hU : mn ≠ .UND) : ∀ mode ∈ mn.modes,
    ((opcodeFor mn mode.slot).any fun op => tableMnemonic op == mn && tableMode op == mode) = true := by
  cases mn with
  | UND => exact absurd rfl hU
  | _ => decide

theorem nodup_undefinedOpcodes : undefinedOpcodes.Nodup := by decide

theorem length_definedOpcodes :
    ((List.range 256).filter fun n => (tableEntry (BitVec.ofNat 8 n)).isSome).length = 151 := by
  decide +kernel

theorem tableEntry_eq_none_iff {op : Byte} : tableEntry op = none ↔ op ∈ undefinedOpcodes := by
  rw [undefinedOpcodes_eq, List.mem_filter, Option.isNone_iff_eq_none, iff_and_self]
  exact fun _ => List.mem_map.mpr ⟨op.toNat, List.mem_range.mpr op.isLt, by simp⟩

theorem opcodeFor_of_tableEntry {op : Byte} {e : TableEntry} (h : tableEntry op = some e) :
    opcodeFor e.mn e.mode.slot = some op := by
  have hop := tableEntry_opcodeFor op
  rw [h] at hop
  exact eq_of_beq hop

theorem modes_of_tableEntry {op : Byte} {e : TableEntry} (h : tableEntry op = some e) : e.mode ∈ e.mn.modes := by
  have hop := tableEntry_supported op
  rw [h] at hop
  exact List.contains_iff_mem.mp hop

/-- Settles O8: the table and the groups, looked at byte by byte and mnemonic by mnemonic. -/
theorem opcodeGroupsInvertTheTable : Obligations.OpcodeGroupsInvertTheTable :=
  ⟨fun _ _ => opcodeFor_of_tableEntry, opcodeGroup_table, fun _ => tableEntry_eq_none_iff, rfl, nodup_undefinedOpcodes,
    length_definedOpcodes⟩

end Sys2Proof
end

section
/-! ### The columns of a decoded instruction -/

namespace Sys2Proof

open Sys2Proof.Machine

/-- The operand bytes decide nothing of the entry. -/
theorem entry_instrOf (op : Byte) (mn : Mnemonic) (mode : Mode) (b1 b2 : Byte) :
    (instrOf mn mode b1 b2).map (Instr.entry op) = (instrOf mn mode 0 0).map (Instr.entry op) := by
  cases mn with
  | LDA | LDX | LDY | ADC | SBC | CMP | CPX | CPY | AND | ORA | EOR | STA | STX | STY | INC | DEC | BIT | ASL | LSR | ROL
  | ROR | JMP => cases mode <;> rfl
  | _ => rfl

theorem decode3_of_undefined {op : Byte} (h : tableEntry op = none) (b1 b2 : Byte) : decode3 op b1 b2 = .und op := by
  rw [decode3, h]

/-- A defined opcode decodes to an instruction that has the table's entry. -/
theorem entry_decode3 {op : Byte} {e : TableEntry} (h : tableEntry op = some e) (b1 b2 : Byte) :
    (decode3 op b1 b2).entry op = e := by
  have hentry := tableEntry_eq_entry op
  rw [h] at hentry
  obtain ⟨i, hi, rfl⟩ := Option.map_eq_some_iff.mp ((entry_instrOf op e.mn e.mode b1 b2).trans (eq_of_beq hentry))
  rw [decode3, h]
  exact congrArg (fun o => (o.getD (.und op)).entry op) hi

theorem tableMnemonic_of_undefined {op : Byte} (h : tableEntry op = none) : tableMnemonic op = .UND := by
  rw [tableMnemonic, h]
  rfl

theorem tableMode_of_undefined {op : Byte} (h : tableEntry op = none) : tableMode op = .IMP := by
  rw [tableMode, h]
  rfl

theorem mnemonic_decode3 (op b1 b2 : Byte) : (decode3 op b1 b2).mnemonic = tableMnemonic op := by
  cases h : tableEntry op with
  | none => rw [decode3_of_undefined h, tableMnemonic_of_undefined h, Instr.mnemonic]
  | some e => rw [tableMnemonic, h, ← entry_decode3 h b1 b2]; rfl

theorem mode_decode3 (op b1 b2 : Byte) : (decode3 op b1 b2).mode = tableMode op := by
  cases h : tableEntry op with
  | none => rw [decode3_of_undefined h, tableMode_of_undefined h, Instr.mode]
  | some e => rw [tableMode, h, ← entry_decode3 h b1 b2]; rfl

theorem baseCycles_decode3 (op b1 b2 : Byte) : baseCycles (decode3 op b1 b2) = tableCycles op := by
  cases h : tableEntry op with
  | none => rw [decode3_of_undefined h, tableCycles, h]; rfl
  | some e => rw [tableCycles, h, ← entry_decode3 h b1 b2]; rfl

/-- Settles O7: the columns are those of the table's entry. -/
theorem decodedColumnsAreTheTables : Obligations.DecodedColumnsAreTheTables := by
  refine fun op b1 b2 => ⟨mnemonic_decode3 op b1 b2, mode_decode3 op b1 b2, baseCycles_decode3 op b1 b2, fun e he => ?_⟩
  obtain rfl := entry_decode3 he b1 b2
  simp only [Instr.entry, Bool.and_eq_true, List.contains_iff_mem]

end Sys2Proof
end

section
/-! ### The decoder and the encoder are inverse -/

namespace Sys2Proof

/-! #### Which instructions exist -/

theorem Instr.eq_und_or (i : Instr) : (∃ op, i = .und op) ∨ i.mnemonic ≠ .UND := by
  cases i <;> simp [Instr.mnemonic]

theorem Instr.wellFormed_und {op : Byte} : (Instr.und op).wellFormed = true ↔ op ∈ undefinedOpcodes := by
  simp [Instr.wellFormed, Instr.modeSupported, Instr.undefinedByteOk, Instr.mnemonic, Instr.mode, Mnemonic.modes]

theorem Instr.wellFormed_of_ne_und {i : Instr} (hU : i.mnemonic ≠ .UND) :
    i.wellFormed = true ↔ i.mode ∈ i.mnemonic.modes := by
  have hbyte : i.undefinedByteOk = true := by
    cases i with
    | und => exact absurd rfl hU
    | _ => rfl
  rw [Instr.wellFormed, hbyte, Bool.and_true, Instr.modeSupported, List.contains_iff_mem]

/-! #### The opcode byte -/

theorem Instr.wellFormed_of_opcode? {i : Instr} {op : Byte} (h : i.opcode? = some op) : i.wellFormed = true := by
  by_contra hwf
  simp [Instr.opcode?, hwf] at h

theorem Instr.opcode?_und {op : Byte} (h : op ∈ undefinedOpcodes) : (Instr.und op).opcode? = some op := by
  simp [Instr.opcode?, Instr.wellFormed_und.mpr h]

theorem Instr.opcode?_of_ne_und {i : Instr} (hU : i.mnemonic ≠ .UND) (hwf : i.wellFormed = true) :
    i.opcode? = opcodeFor i.mnemonic i.mode.slot := by
  cases i with
  | und => exact absurd rfl hU
  | _ => simp [Instr.opcode?, hwf]

/-- An instruction that exists has an opcode byte, and the table gives that byte its mnemonic and its mode. -/
theorem Instr.exists_opcode? {i : Instr} (hwf : i.wellFormed = true) :
    ∃ op, i.opcode? = some op ∧ tableMnemonic op = i.mnemonic ∧ tableMode op = i.mode := by
  obtain ⟨op, rfl⟩ | hU := i.eq_und_or
  · have hop := Instr.wellFormed_und.mp hwf
    have hnone := tableEntry_eq_none_iff.mpr hop
    exact ⟨op, Instr.opcode?_und hop, tableMnemonic_of_undefined hnone, tableMode_of_undefined hnone⟩
  · have htable := opcodeFor_table hU _ ((Instr.wellFormed_of_ne_und hU).mp hwf)
    rw [← Instr.opcode?_of_ne_und hU hwf, Option.any_eq_true] at htable
    obtain ⟨op, hop, hcolumns⟩ := htable
    rw [Bool.and_eq_true, beq_iff_eq, beq_iff_eq] at hcolumns
    exact ⟨op, hop, hcolumns⟩

theorem Instr.table_of_opcode? {i : Instr} {op : Byte} (h : i.opcode? = some op) :
    tableMnemonic op = i.mnemonic ∧ tableMode op = i.mode := by
  obtain ⟨op', hop', htable⟩ := Instr.exists_opcode? (Instr.wellFormed_of_opcode? h)
  cases h.symm.trans hop'
  exact htable

/-- Every byte is the opcode of what it decodes to. -/
theorem opcode?_decode3 (op b1 b2 : Byte) : (decode3 op b1 b2).opcode? = some op := by
  cases h : tableEntry op with
  | none =>
    rw [decode3_of_undefined h]
    exact Instr.opcode?_und (tableEntry_eq_none_iff.mp h)
  | some e =>
    have hmodes := modes_of_tableEntry h
    have hopcode := opcodeFor_of_tableEntry h
    rw [← entry_decode3 h b1 b2] at hmodes hopcode
    have hU : (decode3 op b1 b2).mnemonic ≠ .UND := fun hU => by
      simp [Instr.entry, hU, opcodeFor, opcodeGroup] at hopcode
    rw [Instr.opcode?_of_ne_und hU ((Instr.wellFormed_of_ne_und hU).mpr hmodes)]
    exact hopcode

/-! #### The operand bytes -/

theorem Instr.length_operandBytes (i : Instr) : i.operandBytes.length + 1 = i.length := by
  cases i with
  | lda o | ldx o | ldy o | adc o | sbc o | cmp o | cpx o | cpy o | and o | ora o | eor o =>
    exact Laws.EncodedLength.of_readOperand o
  | sta m | stx m | sty m | inc m | dec m | bit m => exact Laws.EncodedLength.of_memOperand m
  | asl o | lsr o | rol o | ror o => exact Laws.EncodedLength.of_shiftOperand o
  | jmp o => exact Laws.EncodedLength.of_jumpOperand o
  | _ => rfl

theorem Mode.operandLength_cases (m : Mode) : m.operandLength = 0 ∨ m.operandLength = 1 ∨ m.operandLength = 2 := by
  cases m <;> decide

theorem eq_take_of_getD {l : List Byte} {b1 b2 : Byte} (hlen : l.length ≤ 2) (h1 : 0 < l.length → b1 = l.getD 0 0)
    (h2 : 1 < l.length → b2 = l.getD 1 0) : l = [b1, b2].take l.length := by
  match l with
  | [] => rfl
  | [_] => rw [h1 (by simp)]; rfl
  | [_, _] => rw [h1 (by simp), h2 (by simp)]; rfl

theorem Instr.hasOperandBytes_of_getD {i : Instr} {b1 b2 : Byte}
    (h1 : 0 < i.operandBytes.length → b1 = i.operandBytes.getD 0 0)
    (h2 : 1 < i.operandBytes.length → b2 = i.operandBytes.getD 1 0) : i.hasOperandBytes b1 b2 := by
  have hlen : i.operandBytes.length = i.mode.operandLength := Nat.succ.inj i.length_operandBytes
  have hle : i.operandBytes.length ≤ 2 := by
    have := i.mode.operandLength_cases
    omega
  rw [Instr.hasOperandBytes, ← hlen]
  exact eq_take_of_getD hle h1 h2

theorem Instr.exists_hasOperandBytes (i : Instr) : ∃ b1 b2, i.hasOperandBytes b1 b2 :=
  ⟨_, _, Instr.hasOperandBytes_of_getD (fun _ => rfl) (fun _ => rfl)⟩

/-! #### The decoder, from the columns -/

/-- The decoder reads the table by its two columns alone. -/
theorem decode3_eq_instrOf (op b1 b2 : Byte) :
    decode3 op b1 b2 = (instrOf (tableMnemonic op) (tableMode op) b1 b2).getD (.und op) := by
  rw [decode3, tableMnemonic, tableMode]
  cases tableEntry op <;> rfl

/-- The operand bytes of a decoded instruction are the bytes after its opcode. -/
theorem hasOperandBytes_decode3 (op b1 b2 : Byte) : (decode3 op b1 b2).hasOperandBytes b1 b2 := by
  rw [decode3_eq_instrOf]
  cases h : instrOf (tableMnemonic op) (tableMode op) b1 b2 with
  | none => rfl
  | some i => exact hasOperandBytes_of_instrOf h

/-- An instruction is decoded from its opcode byte and its operand bytes. -/
theorem decode3_of_opcode? {i : Instr} {op b1 b2 : Byte} (hop : i.opcode? = some op) (hb : i.hasOperandBytes b1 b2) :
    decode3 op b1 b2 = i := by
  obtain ⟨hmn, hmode⟩ := Instr.table_of_opcode? hop
  rw [decode3_eq_instrOf, hmn, hmode]
  obtain ⟨op', rfl⟩ | hU := i.eq_und_or
  · cases hop.symm.trans (Instr.opcode?_und (Instr.wellFormed_und.mp (Instr.wellFormed_of_opcode? hop)))
    rfl
  · rw [instrOf_of_operandBytes hU hb, Option.getD_some]

/-- Bytes past the instruction are not looked at. -/
theorem decode3_congr {op b1 b2 c1 c2 : Byte}
    (h : [b1, b2].take (tableMode op).operandLength = [c1, c2].take (tableMode op).operandLength) :
    decode3 op b1 b2 = decode3 op c1 c2 := by
  refine decode3_of_opcode? (opcode?_decode3 op c1 c2) ((hasOperandBytes_decode3 op c1 c2).trans ?_)
  rw [mode_decode3, h]

/-- The decoder on a byte sequence: the instruction at its first bytes, and the bytes that it does not use. -/
theorem decodeBytes_take (op b1 b2 : Byte) (rest : List Byte) :
    decodeBytes (op :: ([b1, b2].take (tableMode op).operandLength ++ rest)) = .ok (decode3 op b1 b2, rest) := by
  obtain h | h | h := (tableMode op).operandLength_cases
  · rw [decode3_congr (c1 := 0) (c2 := 0) (by simp [h])]
    simp [decodeBytes, h]
  · rw [decode3_congr (c1 := b1) (c2 := 0) (by simp [h])]
    simp [decodeBytes, h]
  · simp [decodeBytes, h]

/-! #### The round trips -/

theorem encode_of_opcode? {i : Instr} {op : Byte} (h : i.opcode? = some op) : encode i = some (op :: i.operandBytes) := by
  rw [encode, h, Option.map_some]

theorem exists_opcode?_of_encode {i : Instr} {bs : List Byte} (h : encode i = some bs) :
    ∃ op, i.opcode? = some op ∧ bs = op :: i.operandBytes := by
  obtain ⟨op, hop, hbs⟩ := Option.map_eq_some_iff.mp h
  exact ⟨op, hop, hbs.symm⟩

/-- Settles O1: the opcode byte has the instruction's columns, and the operand bytes are read back. -/
theorem decodeOfEncodeIsTheInstruction : Obligations.DecodeOfEncodeIsTheInstruction := by
  intro i rest hwf
  obtain ⟨op, hop, -, hmode⟩ := Instr.exists_opcode? hwf
  obtain ⟨b1, b2, hb⟩ := i.exists_hasOperandBytes
  refine ⟨_, encode_of_opcode? hop, i.length_operandBytes, ?_⟩
  rw [hb, ← hmode, List.cons_append, decodeBytes_take, decode3_of_opcode? hop hb]

theorem wellFormed_decode3 (op b1 b2 : Byte) : (decode3 op b1 b2).wellFormed = true :=
  Instr.wellFormed_of_opcode? (opcode?_decode3 op b1 b2)

theorem encode_decode3 (op b1 b2 : Byte) :
    encode (decode3 op b1 b2) = some (op :: [b1, b2].take (decode3 op b1 b2).mode.operandLength) := by
  rw [encode_of_opcode? (opcode?_decode3 op b1 b2), hasOperandBytes_decode3]

/-- Settles O2: the decoded instruction has the opcode byte and the operand bytes it was read from. -/
theorem encodeOfDecodeIsTheBytes : Obligations.EncodeOfDecodeIsTheBytes :=
  fun op b1 b2 => ⟨wellFormed_decode3 op b1 b2, encode_decode3 op b1 b2⟩

/-- Settles O3: an instruction has an opcode byte exactly when it is well formed. -/
theorem encodableExactlyWhenWellFormed : Obligations.EncodableExactlyWhenWellFormed := by
  refine fun i => ⟨fun ⟨bs, h⟩ => ?_, fun hwf => ?_⟩
  · obtain ⟨op, hop, -⟩ := exists_opcode?_of_encode h
    exact Instr.wellFormed_of_opcode? hop
  · obtain ⟨op, hop, -⟩ := Instr.exists_opcode? hwf
    exact ⟨_, encode_of_opcode? hop⟩

end Sys2Proof
end

section
/-! ### A step and the bytes at the program counter -/

namespace Sys2Proof.Machine

/-- Settles O4, by running the decoder. -/
theorem wordsWrittenOutDecode : Obligations.WordsWrittenOutDecode := by
  unfold Obligations.WordsWrittenOutDecode
  decide

theorem step_eq_exec (s : State) : step s = exec (decode3 (s.read s.pc) (s.read (s.pc + 1)) (s.read (s.pc + 2))) s := rfl

/-- Settles O5: the decoder on three bytes is `decode3` and the bytes it does not use. -/
theorem stepRunsTheDecodedInstruction : Obligations.StepRunsTheDecodedInstruction := by
  intro s i rest h
  have hdecode := decodeBytes_take (s.read s.pc) (s.read (s.pc + 1)) (s.read (s.pc + 2))
    ([s.read (s.pc + 1), s.read (s.pc + 2)].drop (tableMode (s.read s.pc)).operandLength)
  rw [List.take_append_drop] at hdecode
  cases h.symm.trans hdecode
  rfl

/-- Settles O6: the opcode and the operand bytes in memory decode to the instruction. -/
theorem stepRunsTheEncodedInstruction : Obligations.StepRunsTheEncodedInstruction := by
  intro s i bs h hread
  obtain ⟨op, hop, rfl⟩ := exists_opcode?_of_encode h
  have hop' : s.read s.pc = op := (congrArg s.read (BitVec.add_zero s.pc).symm).trans (hread 0 (Nat.succ_pos _))
  have hb : i.hasOperandBytes (s.read (s.pc + 1)) (s.read (s.pc + 2)) :=
    Instr.hasOperandBytes_of_getD (fun h1 => hread 1 (Nat.succ_lt_succ h1)) (fun h2 => hread 2 (Nat.succ_lt_succ h2))
  rw [step_eq_exec, hop', decode3_of_opcode? hop hb]

end Sys2Proof.Machine
end

section
/-! ### Effective addresses in numbers -/

namespace Sys2Proof.Machine

theorem zeroPage_eq_ofNat (b : Byte) : zeroPage b = BitVec.ofNat 16 b.toNat := (BitVec.ofNat_toNat 16 b).symm

theorem toNat_zeroPage_add (b v : Byte) : (zeroPage (b + v)).toNat = (b.toNat + v.toNat) % 256 := by
  rw [toNat_zeroPage, BitVec.toNat_add]

/-- The pointer in the zero page, low byte first; the address of its high byte wraps there (R94, R95). -/
theorem State.toNat_zeroPagePointer (s : State) (z : Byte) :
    (s.zeroPagePointer z).toNat =
      256 * (s.read (BitVec.ofNat 16 ((z.toNat + 1) % 256))).toNat + (s.read (BitVec.ofNat 16 z.toNat)).toNat := by
  rw [State.zeroPagePointer, toNat_word, zeroPage_eq_ofNat, zeroPage_eq_ofNat, BitVec.toNat_add, Nat.mul_comm]
  rfl

theorem hi_ne_iff {a b : Addr} : hi a ≠ hi b ↔ a.toNat / 256 ≠ b.toNat / 256 := by
  rw [Ne, ← BitVec.toNat_inj, toNat_hi, toNat_hi]

theorem MemOperand_crossed_iff_hi (m : MemOperand) (s : State) : m.crossed s = true ↔ hi (m.base s) ≠ hi (m.ea s) :=
  bne_iff_ne

theorem pageCrossed_iff {a b : Addr} : pageCrossed a b = true ↔ a.toNat / 256 ≠ b.toNat / 256 :=
  bne_iff_ne.trans hi_ne_iff

/-- Settles O19: without an index the address is the mode's base, with one it is the sum modulo 65536. -/
theorem effectiveAddressesFollowTheirModes : Obligations.EffectiveAddressesFollowTheirModes := by
  refine ⟨fun s b => ?_, fun s a => ?_, fun s b => ?_, fun s v m => ⟨rfl, rfl, rfl, rfl⟩⟩
  · refine ⟨?_, ?_, ?_, MemOperand_crossed_eq_false s _ rfl, MemOperand_crossed_eq_false s _ rfl,
      MemOperand_crossed_eq_false s _ rfl⟩ <;> rw [MemOperand_ea_eq_base s _ rfl]
    · exact toNat_zeroPage b
    · exact toNat_zeroPage_add b s.x
    · exact toNat_zeroPage_add b s.y
  · exact ⟨MemOperand_ea_eq_base s _ rfl, MemOperand_crossed_eq_false s _ rfl, MemOperand_toNat_ea s _,
      MemOperand_toNat_ea s _, MemOperand_crossed_iff_hi _ s, MemOperand_crossed_iff_hi _ s⟩
  · intro px pointer
    have hpointer : ∀ z : Byte, (s.zeroPagePointer z).toNat = pointer z.toNat := s.toNat_zeroPagePointer
    refine ⟨?_, MemOperand_crossed_eq_false s _ rfl, ?_, ?_⟩
    · rw [MemOperand_ea_eq_base s _ rfl]
      exact (hpointer (b + s.x)).trans (congrArg pointer (BitVec.toNat_add b s.x))
    · rw [← hpointer]
      exact MemOperand_toNat_ea s (.indy b)
    · rw [← hpointer]
      exact pageCrossed_iff

end Sys2Proof.Machine
end

section
/-! ### The cycles of a step -/

namespace Sys2Proof.Machine

/-! #### Page crossings of the reading instructions (R99) -/

theorem MemOperand_crossed_iff (m : MemOperand) (s : State) :
    m.crossed s = true ↔
      m.mode ∈ [Mode.ABSX, Mode.ABSY, Mode.INDY] ∧ (m.base s).toNat / 256 ≠ (m.ea s).toNat / 256 := by
  cases m with
  | zp | zpx | zpy | abs | indx =>
    rw [MemOperand_crossed_eq_false s _ rfl]
    simp [MemOperand.mode]
  | absx | absy | indy => simp [MemOperand.crossed, pageCrossed_iff, MemOperand.mode]

theorem extraCycles_of_paysPageCross {i : Instr} {o : ReadOperand} (h : paysPageCross i = some o) (s : State) :
    extraCycles i s = o.extra s := by
  cases o with
  | imm => simp only [extraCycles, h, ReadOperand.extra]
  | mem m => simp only [extraCycles, h, ReadOperand.extra, MemOperand_crossed_iff]

theorem ReadOperand_extra_eq_zero {o : ReadOperand} (h : o.mode ∉ [Mode.ABSX, Mode.ABSY, Mode.INDY]) (s : State) :
    o.extra s = 0 := by
  cases o with
  | imm => rfl
  | mem m => exact if_neg fun hcrossed => h ((MemOperand_crossed_iff m s).mp hcrossed).1

/-! #### Branches (R98, R183) -/

/-- The instruction is a conditional branch, taken or not in this state. -/
structure IsBranch (i : Instr) (off : Byte) (taken : Bool) (s : State) : Prop where
  exec : exec i s = .next (s.branch i off taken)
  length : i.length = 2
  cycles : baseCycles i = 2
  noBreak : isBreak i = false
  paysNoCross : paysPageCross i = none
  writesNothing : regsWritten i = [] ∧ flagsWritten i = [] ∧ storedAt i s = []

theorem isBranch_of_branchOf {i : Instr} {off : Byte} {taken : Bool} {s : State} (h : branchOf i s = some (off, taken)) :
    IsBranch i off taken s := by
  cases i with
  | bcc | bcs | beq | bne | bmi | bpl | bvc | bvs =>
    cases h
    exact ⟨rfl, rfl, rfl, rfl, rfl, rfl, rfl, rfl⟩
  | _ => cases h

/-- The extra cycles of a branch. -/
def branchExtra (next : Addr) (off : Byte) (taken : Bool) : Nat :=
  if taken then if pageCrossed next (branchTarget next off) then 2 else 1 else 0

theorem extraCycles_of_branchOf {i : Instr} {off : Byte} {taken : Bool} {s : State}
    (h : branchOf i s = some (off, taken)) : extraCycles i s = branchExtra (s.pc + 2) off taken := by
  cases taken with
  | false => simp only [extraCycles, (isBranch_of_branchOf h).paysNoCross, h, branchExtra]; rfl
  | true =>
    simp only [extraCycles, (isBranch_of_branchOf h).paysNoCross, h, branchExtra, pageCrossed_iff]
    split <;> rfl

theorem exec_of_branchOf {i : Instr} {off : Byte} {taken : Bool} {s : State} (h : branchOf i s = some (off, taken)) :
    exec i s = .next ((s.setPC (if taken then branchTarget (s.pc + 2) off else s.pc + 2)).finish i (extraCycles i s)) := by
  have hbranch := isBranch_of_branchOf h
  rw [hbranch.exec, State.branch_eq_finish, State.pc_pastInstr, hbranch.length, extraCycles_of_branchOf h]
  rfl

/-! #### Every instruction -/

/-- The instruction answers a next state, which is the end of its step with the extra cycles of R97. -/
def endsWithExtraCycles (i : Instr) (s : State) : Prop := ∃ u : State, exec i s = .next (u.finish i (extraCycles i s))

theorem endsWithExtraCycles_of_finish {i : Instr} {s u : State} {n : Nat} (h : exec i s = .next (u.finish i n))
    (hn : extraCycles i s = n) : endsWithExtraCycles i s :=
  ⟨u, hn ▸ h⟩

theorem exec_endsWithExtraCycles {i : Instr} (s : State) (hwf : i.wellFormed = true) : endsWithExtraCycles i s := by
  cases i with
  | lda | ldx | ldy | adc | sbc | and | ora | eor | cmp =>
    exact endsWithExtraCycles_of_finish rfl (extraCycles_of_paysPageCross rfl s)
  | cpx o | cpy o =>
    have hmode : o.mode ∈ [Mode.IMM, .ZP, .ABS] := (Instr.wellFormed_of_ne_und (by simp [Instr.mnemonic])).mp hwf
    have hextra : o.extra s = 0 := ReadOperand_extra_eq_zero (by revert hmode; cases o.mode <;> decide) s
    exact endsWithExtraCycles_of_finish rfl hextra.symm
  | bcc | bcs | beq | bne | bmi | bpl | bvc | bvs => exact ⟨_, exec_of_branchOf rfl⟩
  | _ => exact ⟨_, rfl⟩

/-- Settles O10: the result is that of the end of the step, and `exec_cyc` adds it to the counter. -/
theorem cyclesAreBasePlusExtra : Obligations.CyclesAreBasePlusExtra := by
  intro i s hwf
  obtain ⟨u, hu⟩ := exec_endsWithExtraCycles s hwf
  exact ⟨_, hu, exec_cyc hu, rfl⟩

/-- BRK has the opcode byte 0x00 and no other (R101). -/
theorem decode3_eq_brk_iff {op b1 b2 : Byte} : decode3 op b1 b2 = .brk ↔ op = 0x00 := by
  constructor
  · intro h
    have hop := opcode?_decode3 op b1 b2
    rw [h] at hop
    exact (Option.some.inj hop).symm
  · rintro rfl
    rfl

/-- Settles O9: what is decoded is well formed and has the table's base cycles. -/
theorem stepFollowsTheLoopBody : Obligations.StepFollowsTheLoopBody := by
  intro s
  have hwf : s.fetchInstr.wellFormed = true := wellFormed_decode3 ..
  have hcycles : baseCycles s.fetchInstr = tableCycles (s.read s.pc) := baseCycles_decode3 ..
  obtain ⟨t, ht, -, hresult⟩ := cyclesAreBasePlusExtra s.fetchInstr s hwf
  refine ⟨t, ht, ht, ?_, exec_cyc ht, ?_⟩
  · rw [hresult, hcycles]
  · rw [hresult, isBreak_iff]
    exact decode3_eq_brk_iff

end Sys2Proof.Machine
end

section
/-! ### Encodings, jumps, branches and no-operations -/

namespace Sys2Proof.Machine

/-- The Encoding line of a rule, from the table's rows of the listed bytes and the mnemonic's opcode group. -/
theorem encodings_of_opcodeGroup {mn : Mnemonic} {rows : List (Byte × Mode × Nat)}
    (hrows : ∀ r ∈ rows, tableMnemonic r.1 = mn ∧ tableMode r.1 = r.2.1 ∧ tableCycles r.1 = r.2.2 := by decide)
    (hgroup : ∀ g ∈ opcodeGroup mn, g.2 ∈ rows.map (·.1) := by decide) (hU : mn ≠ .UND := by decide) :
    encodings mn rows := by
  refine ⟨fun r hr b1 b2 => ?_, fun op b1 b2 h => ?_⟩
  · rw [mnemonic_decode3, mode_decode3, baseCycles_decode3]
    exact hrows r hr
  · have hop := opcode?_decode3 op b1 b2
    rw [Instr.opcode?_of_ne_und (h.trans_ne hU) (wellFormed_decode3 op b1 b2), h] at hop
    obtain ⟨g, hg, rfl⟩ := Option.map_eq_some_iff.mp hop
    exact hgroup g (List.mem_of_find?_eq_some hg)

/-! #### Jumps -/

/-- Inside a page the two values of the parameter agree (R93). -/
theorem pointerHighAddr_of_lo_ne {ptr : Addr} (h : lo ptr ≠ 0xFF) (w : Bool) : pointerHighAddr w ptr = ptr + 1 := by
  cases w with
  | false => rfl
  | true =>
    have hlo : ptr.toNat % 256 ≠ 255 := by
      rw [← toNat_lo]
      exact fun hlo => h (BitVec.eq_of_toNat_eq hlo)
    apply BitVec.eq_of_toNat_eq
    rw [pointerHighAddr, toNat_word, toNat_hi, BitVec.toNat_add, BitVec.toNat_add, toNat_lo]
    change ptr.toNat / 256 * 256 + (ptr.toNat % 256 + 1) % 256 = (ptr.toNat + 1) % 65536
    have := ptr.isLt
    omega

/-- At the end of a page the high byte comes from the start of the page or from the next one (R93). -/
theorem State.indirectTarget_true_of_lo_eq {ptr : Addr} (h : lo ptr = 0xFF) (s : State) :
    s.indirectTarget true ptr = word (s.read (word (hi ptr) 0x00)) (s.read ptr) := by
  rw [State.indirectTarget, pointerHighAddr, h]
  rfl

theorem exec_jmp (o : JumpOperand) (s : State) : exec (.jmp o) s = .next ((s.setPC (o.target s)).finish (.jmp o) 0) := rfl

/-- Settles O33: the target by the two values of the parameter, the rest by the frame of every instruction. -/
theorem jumpsGoToTheirTarget : Obligations.JumpsGoToTheirTarget := by
  refine ⟨encodings_of_opcodeGroup, fun a s => ?_, fun ptr s => ?_⟩
  · exact ⟨_, exec_jmp .., rfl, ⟨rfl, rfl⟩, exec_frame (exec_jmp ..), rfl⟩
  · have htarget (w : Bool) (hw : Config.jmpIndPageWrap = w) :
        (JumpOperand.ind ptr).target s = s.indirectTarget w ptr := by rw [← hw]; rfl
    refine ⟨_, exec_jmp .., fun h => ?_, fun _ hw => htarget false hw, fun h hw => ?_, ⟨rfl, rfl⟩,
      exec_frame (exec_jmp ..), rfl⟩
    · exact congrArg (fun a => word (s.read a) (s.read ptr)) (pointerHighAddr_of_lo_ne h _)
    · exact (htarget true hw).trans (s.indirectTarget_true_of_lo_eq h)

/-! #### Branches -/

theorem branchTarget_eq_ofInt (pc : Addr) (off : Byte) :
    branchTarget (pc + 2) off = BitVec.ofInt 16 (pc.toNat + 2 + off.toInt) := by
  rw [BitVec.ofInt_add, BitVec.ofInt_add, BitVec.ofInt_natCast, BitVec.ofNat_toNat, BitVec.setWidth_eq]
  rfl

/-- A branch costs 2 cycles when not taken, 3 or 4 when taken (R183). -/
theorem two_add_branchExtra (next : Addr) (off : Byte) (taken : Bool) :
    2 + branchExtra next off taken = if taken then (if hi next = hi (branchTarget next off) then 3 else 4) else 2 := by
  cases taken with
  | false => rfl
  | true =>
    by_cases h : hi next = hi (branchTarget next off) <;> simp [branchExtra, pageCrossed, h]

theorem branches_of_branchOf {i : Instr} {off : Byte} {taken : Bool} {s : State}
    (h : branchOf i s = some (off, taken)) : branches i off taken s := by
  have hexec := exec_of_branchOf h
  have hbranch := isBranch_of_branchOf h
  obtain ⟨hregs, hflags, hmemory⟩ := hbranch.writesNothing
  have hframe := exec_frame hexec
  rw [hregs, hflags, hmemory] at hframe
  have hcost : baseCycles i + extraCycles i s = 2 + branchExtra (s.pc + 2) off taken := by
    rw [hbranch.cycles, extraCycles_of_branchOf h]
  rw [two_add_branchExtra, branchTarget_eq_ofInt] at hcost
  refine ⟨_, hexec, ?_, ⟨?_, ?_⟩, hframe, rfl⟩
  · rw [← branchTarget_eq_ofInt]
    rfl
  · rw [State.cyc_finish, hcost]
    rfl
  · rw [State.result_finish, hcost, hbranch.noBreak]

/-- Settles O36: each branch is its row of `branchOf`. -/
theorem branchesTestTheirFlag : Obligations.BranchesTestTheirFlag := by
  refine ⟨encodings_of_opcodeGroup, encodings_of_opcodeGroup, encodings_of_opcodeGroup, encodings_of_opcodeGroup,
    encodings_of_opcodeGroup, encodings_of_opcodeGroup, encodings_of_opcodeGroup, encodings_of_opcodeGroup, ?_⟩
  simp only [beq_false, beq_true]
  and_intros <;> exact fun off s => branches_of_branchOf rfl

/-! #### No-operations -/

/-- An undefined opcode is printed as the placeholder alone (R232, R233). -/
theorem decodeOne_of_undefined {op : Byte} (h : tableEntry op = none) (placeholder : String) (base : Addr)
    (rest : List Byte) : decodeOne placeholder (op :: rest) 0 base = ⟨base, [op], placeholder⟩ := by
  simp [decodeOne, byteAt, instructionText, operandText, mnemonicText, tableMnemonic_of_undefined h,
    tableMode_of_undefined h, Mode.length, Mode.operandLength]

/-- Settles O42: the tables for the bytes, and the arms of `exec` for the effects. -/
theorem noOperationsOnlyAdvance : Obligations.NoOperationsOnlyAdvance :=
  ⟨encodings_of_opcodeGroup, fun _ => rfl, rfl, nodup_undefinedOpcodes,
    fun _ hop => decode3_of_undefined (tableEntry_eq_none_iff.mpr hop), fun _ _ => rfl,
    fun _ hop => decodeOne_of_undefined (tableEntry_eq_none_iff.mpr hop)⟩

end Sys2Proof.Machine
end

section
/-! ### Loads, stores and transfers -/

namespace Sys2Proof.Machine

/-! #### The end of an instruction that neither jumps, traps nor draws a free value -/

theorem Effect.straight_finish {rs : List Reg} {fs : List Flag} {as : List Addr} {s u : State}
    (h : Effect rs fs as False s u) {i : Instr} (hpc : u.pc = (s.pastInstr i).pc) (hbrk : isBreak i = false) (n : Nat) :
    straight i n s (u.finish i n) :=
  ⟨hpc, ⟨congrArg (· + _) h.cyc, congrArg (StepResult.mk _) hbrk⟩, h.freeCtr id⟩

/-- Bit 7 of a byte, N's source, is set from 128 on (R26). -/
theorem zeroNegativeOf_load (s : State) {r : Reg} (v : Byte) (hr : r ≠ .P) : zeroNegativeOf v (s.load r v) :=
  ⟨s.flag_load r v .Z hr, (s.flag_load r v .N hr).trans (BitVec.msb_eq_decide v)⟩

/-! #### The two operations the family shares -/

section

variable {i : Instr} {s : State} {n : Nat}

/-- An instruction that is a load of a value into a register: the loads, and the transfers but TXS. -/
theorem completes_load (r : Reg) {v : Byte} {fs : List Flag}
    (hexec : exec i s = .next (((s.pastInstr i).load r v).finish i n)) (hr : r ≠ .P := by decide)
    (hbrk : isBreak i = false := by rfl) (hZ : .Z ∈ fs := by decide) (hN : .N ∈ fs := by decide) :
    completes i s fun t => t.reg r = v ∧ zeroNegativeOf v t ∧ straight i n s t ∧ frame [r] fs [] s t := by
  have heffect : Effect [r] fs [] False s ((s.pastInstr i).load r v) := Effect.pastInstr.load v (.head _) hr hZ hN
  refine ⟨_, hexec, ?_, zeroNegativeOf_load _ v hr, heffect.straight_finish (State.pc_load ..) hbrk n,
    heffect.finish i n⟩
  rw [State.reg_finish, State.reg_load _ _ _ _ hr, if_pos rfl]

/-- An instruction that stores a byte: the stores. -/
theorem completes_write {a : Addr} {v : Byte} (hexec : exec i s = .next (((s.pastInstr i).write a v).finish i n))
    (hbrk : isBreak i = false := by rfl) :
    completes i s fun t => t.read a = v ∧ straight i n s t ∧ frame [] [] [a] s t := by
  have heffect : Effect [] [] [a] False s ((s.pastInstr i).write a v) := Effect.pastInstr.write v (.head _)
  exact ⟨_, hexec, State.read_write_same .., heffect.straight_finish rfl hbrk n, heffect.finish i n⟩

end

/-! #### The rules -/

/-- Settles O20: each load is `State.load` of its operand. -/
theorem loadsFollowTheirRules : Obligations.LoadsFollowTheirRules :=
  ⟨encodings_of_opcodeGroup, encodings_of_opcodeGroup, encodings_of_opcodeGroup,
    fun _ _ => completes_load .A rfl, fun _ _ => completes_load .X rfl, fun _ _ => completes_load .Y rfl⟩

/-- Settles O21: each store is `State.write` at the effective address. -/
theorem storesFollowTheirRules : Obligations.StoresFollowTheirRules :=
  ⟨encodings_of_opcodeGroup, encodings_of_opcodeGroup, encodings_of_opcodeGroup,
    fun _ _ => completes_write rfl, fun _ _ => completes_write rfl, fun _ _ => completes_write rfl⟩

/-- TXS writes SP and leaves the flags (R132). -/
theorem completes_txs (s : State) :
    completes .txs s fun t => t.sp = s.x ∧ straight .txs 0 s t ∧ frame [.SP] [] [] s t := by
  have heffect : Effect [.SP] [] [] False s ((s.pastInstr .txs).setReg .SP s.x) :=
    Effect.pastInstr.setReg s.x (.head _) (by decide)
  exact ⟨_, rfl, rfl, heffect.straight_finish rfl rfl 0, heffect.finish .txs 0⟩

/-- Settles O22: each transfer is `State.load` of its source, TXS apart. -/
theorem transfersFollowTheirRules : Obligations.TransfersFollowTheirRules :=
  ⟨encodings_of_opcodeGroup, encodings_of_opcodeGroup, encodings_of_opcodeGroup, encodings_of_opcodeGroup,
    encodings_of_opcodeGroup, encodings_of_opcodeGroup,
    fun _ => completes_load .X rfl, fun _ => completes_load .Y rfl, fun _ => completes_load .A rfl,
    fun _ => completes_load .A rfl, fun _ => completes_load .X rfl, completes_txs⟩

end Sys2Proof.Machine
end

section
/-! ### Binary and packed-BCD arithmetic on bytes -/

namespace Sys2Proof.Machine

/-! #### Binary addition and subtraction (R140, R142) -/

theorem toNat_addBinary (a m : Byte) (c : Bool) :
    (addBinary a m c).r.toNat = (a.toNat + m.toNat + c.toNat) % 256 :=
  BitVec.toNat_ofNat ..

theorem addBinary_c (a m : Byte) (c : Bool) :
    (addBinary a m c).c = decide (a.toNat + m.toNat + c.toNat ≥ 256) := rfl

/-- The mask 0x80 tests the sign bit. -/
theorem and_0x80_bne_zero (v : Byte) : (v &&& 0x80 != 0) = v.msb := by
  rw [show (0x80 : Byte) = BitVec.twoPow 8 7 from rfl, BitVec.and_twoPow, BitVec.msb_eq_getLsbD_last]
  cases v.getLsbD (8 - 1) <;> rfl

theorem addBinary_v_eq_msb (a m : Byte) (c : Bool) :
    (addBinary a m c).v = ((a.msb ^^ (addBinary a m c).r.msb) && (m.msb ^^ (addBinary a m c).r.msb)) := by
  rw [← BitVec.msb_xor, ← BitVec.msb_xor, ← BitVec.msb_and]
  exact and_0x80_bne_zero _

/-- The operands have one sign bit and the sum the other exactly when the signed sum does not fit. -/
theorem addBinary_v (a m : Byte) (c : Bool) :
    (addBinary a m c).v =
      decide (¬ (-128 ≤ a.toInt + m.toInt + c.toNat ∧ a.toInt + m.toInt + c.toNat ≤ 127)) := by
  have hr := toNat_addBinary a m c
  have hc := c.toNat_le
  rw [addBinary_v_eq_msb, Bool.eq_iff_iff]
  simp only [BitVec.msb_eq_decide, BitVec.toInt_eq_toNat_cond, hr, Bool.and_eq_true, bne_iff_ne, ne_eq,
    decide_eq_decide, decide_eq_true_eq]
  omega

/-- SBC is ADC of the one's complement of its operand (R142). -/
theorem subBinary_eq_addBinary_not (a m : Byte) (c : Bool) : subBinary a m c = addBinary a (~~~m) c := by
  have hxor : m ^^^ 0xFF = ~~~m := BitVec.xor_allOnes
  have hv : ∀ r : Byte, ((a ^^^ m) &&& (a ^^^ r) &&& 0x80 != 0) = ((a ^^^ r) &&& (~~~m ^^^ r) &&& 0x80 != 0) := by
    intro r
    simp only [and_0x80_bne_zero, BitVec.msb_and, BitVec.msb_xor, BitVec.msb_not]
    cases a.msb <;> cases m.msb <;> cases r.msb <;> rfl
  simp only [subBinary, addBinary, hxor, hv]

theorem toNat_subBinary (a m : Byte) (c : Bool) :
    ((subBinary a m c).r.toNat : Int) = ((a.toNat : Int) - m.toNat - (1 - (c.toNat : Int))) % 256 := by
  rw [subBinary_eq_addBinary_not, toNat_addBinary, BitVec.toNat_not]
  omega

theorem subBinary_c (a m : Byte) (c : Bool) :
    (subBinary a m c).c = decide ((a.toNat : Int) - m.toNat - (1 - (c.toNat : Int)) ≥ 0) := by
  rw [subBinary_eq_addBinary_not, addBinary_c, BitVec.toNat_not, decide_eq_decide]
  omega

theorem toInt_not_eq_sub (v : Byte) : (~~~v).toInt = -1 - v.toInt := by
  rw [BitVec.toInt_eq_toNat_cond, BitVec.toInt_eq_toNat_cond, BitVec.toNat_not]
  omega

theorem subBinary_v (a m : Byte) (c : Bool) :
    (subBinary a m c).v =
      decide (¬ (-128 ≤ a.toInt - m.toInt - (1 - (c.toNat : Int)) ∧ a.toInt - m.toInt - (1 - (c.toNat : Int)) ≤ 127)) := by
  have hsum : a.toInt + (~~~m).toInt + c.toNat = a.toInt - m.toInt - (1 - (c.toNat : Int)) := by
    rw [toInt_not_eq_sub]
    omega
  rw [subBinary_eq_addBinary_not, addBinary_v, hsum]

/-! #### Comparison (R144) -/

theorem msb_sub (reg m : Byte) : (reg - m).msb = decide (((reg.toNat : Int) - m.toNat) % 256 ≥ 128) := by
  rw [BitVec.msb_eq_decide, BitVec.toNat_sub, decide_eq_decide]
  omega

/-! #### Packed BCD (R141) -/

theorem validBcd_iff (v : Byte) : validBcd v = true ↔ hiNibble v ≤ 9 ∧ loNibble v ≤ 9 := by
  rw [validBcd, Bool.and_eq_true, decide_eq_true_eq, decide_eq_true_eq]

theorem toNat_bcd {n : Nat} (h : n < 100) : (bcd n).toNat = 16 * (n / 10) + n % 10 := by
  rw [bcd, BitVec.toNat_ofNat]
  omega

theorem validBcd_bcd {n : Nat} (h : n < 100) : validBcd (bcd n) = true := by
  rw [validBcd_iff, hiNibble, loNibble, toNat_bcd h]
  omega

theorem dec_bcd {n : Nat} (h : n < 100) : dec (bcd n) = n := by
  rw [dec, hiNibble, loNibble, toNat_bcd h]
  omega

/-- The byte of a decimal sum holds its two lower digits, and the carry is its hundreds (R141). -/
theorem addDecimal_spec {a m r : Byte} {c c' : Bool} (h : (r, c') = addDecimal a m c) :
    validBcd r = true ∧ dec r = (dec a + dec m + c.toNat) % 100 ∧ c' = decide (dec a + dec m + c.toNat ≥ 100) := by
  have hlt : (dec a + dec m + c.toNat) % 100 < 100 := Nat.mod_lt _ (by decide)
  cases h
  exact ⟨validBcd_bcd hlt, dec_bcd hlt, rfl⟩

/-- A sum of two digits and a carry, corrected by 6 above 9, has its decimal carry in bit 4 and its digit below. -/
theorem correctedNibble_eq {n : Nat} (h : n < 20) : (if n > 9 then n + 6 else n) = 16 * (n / 10) + n % 10 := by
  split <;> omega

theorem nibbleCarry_eq {n : Nat} (h : n < 20) : (if 16 * (n / 10) + n % 10 > 0x0F then 1 else 0) = n / 10 := by
  split <;> omega

/-- The nibble-wise mechanism is the decimal sum: its two corrected nibbles are the two digits (R141). -/
theorem nibbleAdd_eq_addDecimal {a m : Byte} (c : Bool) (ha : validBcd a = true) (hm : validBcd m = true) :
    nibbleAdd a m c = addDecimal a m c := by
  rw [validBcd_iff] at ha hm
  have hc := c.toNat_le
  have hlow : loNibble a + loNibble m + c.toNat < 20 := by omega
  have hhigh : hiNibble a + hiNibble m + (loNibble a + loNibble m + c.toNat) / 10 < 20 := by omega
  simp only [nibbleAdd, correctedNibble_eq hlow, nibbleCarry_eq hlow, correctedNibble_eq hhigh, addDecimal, bcd, dec]
  refine Prod.ext (congrArg (BitVec.ofNat 8) ?_) (decide_eq_decide.mpr ?_) <;> omega

/-- The decimal difference with its borrow, reduced modulo 100, in one form for both signs (R143). -/
theorem subDecimal_eq {a m : Byte} {c : Bool} {d : Int} (hd : d = (dec a : Int) - dec m - (1 - (c.toNat : Int)))
    (ha : validBcd a = true) (hm : validBcd m = true) : subDecimal a m c = (bcd (d % 100).toNat, decide (d ≥ 0)) := by
  rw [validBcd_iff] at ha hm
  have hc := c.toNat_le
  have hlow : -100 ≤ d := by simp only [hd, dec]; omega
  have hhigh : d < 100 := by simp only [hd, dec]; omega
  simp only [subDecimal, ← hd]
  split
  · next hneg => rw [show d + 100 = d % 100 by omega, decide_eq_false (by omega)]
  · next hnonneg => rw [Int.emod_eq_of_lt (by omega) hhigh, decide_eq_true (by omega)]

/-- The byte of a decimal difference holds the difference modulo 100, and the carry is that it has no borrow (R143). -/
theorem subDecimal_spec {a m r : Byte} {c c' : Bool} (ha : validBcd a = true) (hm : validBcd m = true)
    (h : (r, c') = subDecimal a m c) :
    validBcd r = true ∧ (dec r : Int) = ((dec a : Int) - dec m - (1 - (c.toNat : Int))) % 100 ∧
      c' = decide ((dec a : Int) - dec m - (1 - (c.toNat : Int)) ≥ 0) := by
  rw [subDecimal_eq rfl ha hm] at h
  have hlt : (((dec a : Int) - dec m - (1 - (c.toNat : Int))) % 100).toNat < 100 := by omega
  cases h
  exact ⟨validBcd_bcd hlt, by rw [dec_bcd hlt]; omega, rfl⟩

/-- A borrow out of a nibble is a decimal borrow (R143). -/
theorem nibbleSub_eq_subDecimal {a m : Byte} (c : Bool) (ha : validBcd a = true) (hm : validBcd m = true) :
    nibbleSub a m c = subDecimal a m c := by
  rw [subDecimal_eq rfl ha hm]
  rw [validBcd_iff] at ha hm
  have hc := c.toNat_le
  simp only [nibbleSub, bcd, dec, ← BitVec.ofInt_natCast]
  refine Prod.ext (congrArg (BitVec.ofInt 8) ?_) (decide_eq_decide.mpr ?_) <;> omega

end Sys2Proof.Machine
end

section
/-! ### Additions, subtractions, comparisons, increments and decrements -/

namespace Sys2Proof.Machine

/-! #### What the shared operations write -/

theorem zeroNegativeOf_setZN (s : State) (v : Byte) : zeroNegativeOf v (s.setZN v) :=
  ⟨s.flag_setZN v .Z, (s.flag_setZN v .N).trans (BitVec.msb_eq_decide v)⟩

theorem zeroNegativeOf_setFlag {s : State} {v : Byte} (h : zeroNegativeOf v s) {f : Flag} (b : Bool)
    (hZ : .Z ≠ f := by decide) (hN : .N ≠ f := by decide) : zeroNegativeOf v (s.setFlag f b) := by
  rwa [zeroNegativeOf, State.flag_setFlag, State.flag_setFlag, if_neg hZ, if_neg hN]

theorem State.addWithCarry_of_binary {s : State} {m : Byte} (hD : s.flag .D = false) :
    s.addWithCarry m = s.binaryResult (addBinary s.a m (s.flag .C)) := by
  simp only [State.addWithCarry, hD]

theorem State.addWithCarry_of_validBcd {s : State} {m : Byte} (hD : s.flag .D = true)
    (ha : validBcd s.a = true) (hm : validBcd m = true) :
    s.addWithCarry m = s.decimalResult (addDecimal s.a m (s.flag .C)) := by
  simp only [State.addWithCarry, hD, ha, hm, Bool.and_self]

theorem State.addWithCarry_of_invalidBcd {s : State} {m : Byte} (hD : s.flag .D = true)
    (hbcd : (validBcd s.a && validBcd m) = false) : s.addWithCarry m = s.invalidDecimalResult := by
  simp only [State.addWithCarry, hD, hbcd]

theorem State.subtractWithBorrow_of_binary {s : State} {m : Byte} (hD : s.flag .D = false) :
    s.subtractWithBorrow m = s.binaryResult (subBinary s.a m (s.flag .C)) := by
  simp only [State.subtractWithBorrow, hD]

theorem State.subtractWithBorrow_of_validBcd {s : State} {m : Byte} (hD : s.flag .D = true)
    (ha : validBcd s.a = true) (hm : validBcd m = true) :
    s.subtractWithBorrow m = s.decimalResult (subDecimal s.a m (s.flag .C)) := by
  simp only [State.subtractWithBorrow, hD, ha, hm, Bool.and_self]

theorem State.subtractWithBorrow_of_invalidBcd {s : State} {m : Byte} (hD : s.flag .D = true)
    (hbcd : (validBcd s.a && validBcd m) = false) : s.subtractWithBorrow m = s.invalidDecimalResult := by
  simp only [State.subtractWithBorrow, hD, hbcd]

/-- Where free values may have been drawn, the end of a step is that of `straight` but for their counter. -/
theorem Effect.costs_finish {rs : List Reg} {fs : List Flag} {as : List Addr} {d : Prop} {s u : State}
    (h : Effect rs fs as d s u) {i : Instr} (hbrk : isBreak i = false) (n : Nat) :
    costs (baseCycles i + n) s (u.finish i n) :=
  ⟨congrArg (· + _) h.cyc, congrArg (StepResult.mk _) hbrk⟩

/-! #### What an instruction made of one shared operation leaves -/

section

variable {i : Instr} {s : State} {n : Nat}

/-- ADC and SBC in binary mode (R140, R142). -/
theorem completes_binaryResult {r : AddResult}
    (hexec : exec i s = .next (((s.pastInstr i).binaryResult r).finish i n)) (hbrk : isBreak i = false := by rfl) :
    completes i s fun t => t.a = r.r ∧ t.flag .C = r.c ∧ t.flag .V = r.v ∧ zeroNegativeOf t.a t ∧
      straight i n s t ∧ frame [.A] [.N, .V, .Z, .C] [] s t := by
  have heffect : Effect [.A] [.N, .V, .Z, .C] [] False s ((s.pastInstr i).binaryResult r) :=
    Effect.pastInstr.binaryResult r
  have hZN : zeroNegativeOf r.r ((s.pastInstr i).binaryResult r) :=
    zeroNegativeOf_setFlag (zeroNegativeOf_setFlag (zeroNegativeOf_load _ _ (by decide)) _) _
  refine ⟨_, hexec, rfl, ?_, ?_, hZN, heffect.straight_finish rfl hbrk n, heffect.finish i n⟩ <;>
    simp [State.binaryResult, State.flag_setFlag]

/-- ADC and SBC in decimal mode on packed BCD (R141, R143, U2). -/
theorem completes_decimalResult {r : Byte × Bool}
    (hexec : exec i s = .next (((s.pastInstr i).decimalResult r).finish i n)) (hbrk : isBreak i = false := by rfl) :
    completes i s fun t => (t.a, t.flag .C) = r ∧ zeroNegativeOf t.a t ∧ t.flag .V = Config.freeBit s.freeCtr ∧
      t.freeCtr = s.freeCtr + 1 ∧ t.pc = s.pc + BitVec.ofNat 16 i.length ∧ costs (baseCycles i + n) s t ∧
      frame [.A] [.N, .V, .Z, .C] [] s t := by
  have heffect : Effect [.A] [.N, .V, .Z, .C] [] True s ((s.pastInstr i).decimalResult r) :=
    Effect.pastInstr.decimalResult r trivial
  have hZN : zeroNegativeOf r.1 ((s.pastInstr i).decimalResult r) :=
    zeroNegativeOf_setFlag (zeroNegativeOf_setFlag (zeroNegativeOf_load _ _ (by decide)) _) _
  refine ⟨_, hexec, Prod.ext rfl ?_, hZN, ?_, rfl, rfl, heffect.costs_finish hbrk n, heffect.finish i n⟩ <;>
    simp [State.decimalResult, State.flag_setFlag]

/-- ADC and SBC in decimal mode on a byte that is not packed BCD (R141, R143, U3). -/
theorem completes_invalidDecimalResult
    (hexec : exec i s = .next ((s.pastInstr i).invalidDecimalResult.finish i n)) (hbrk : isBreak i = false := by rfl) :
    completes i s fun t => t.a = Config.freeByte s.freeCtr ∧ t.flag .C = Config.freeBit s.freeCtr ∧
      t.flag .Z = Config.freeBit (s.freeCtr + 1) ∧ t.flag .N = Config.freeBit (s.freeCtr + 2) ∧
      t.flag .V = Config.freeBit (s.freeCtr + 3) ∧ t.freeCtr = s.freeCtr + 4 ∧
      t.pc = s.pc + BitVec.ofNat 16 i.length ∧ costs (baseCycles i + n) s t ∧ frame [.A] [.N, .V, .Z, .C] [] s t := by
  have heffect : Effect [.A] [.N, .V, .Z, .C] [] True s (s.pastInstr i).invalidDecimalResult :=
    Effect.pastInstr.invalidDecimalResult trivial
  refine ⟨_, hexec, rfl, ?_, ?_, ?_, ?_, rfl, rfl, heffect.costs_finish hbrk n, heffect.finish i n⟩ <;>
    simp [State.invalidDecimalResult, State.flag_setFlag]

/-- The compares (R144). -/
theorem completes_compare {reg m : Byte} (hexec : exec i s = .next (((s.pastInstr i).compare reg m).finish i n))
    (hbrk : isBreak i = false := by rfl) :
    completes i s fun t => t.flag .C = decide (reg.toNat ≥ m.toNat) ∧ t.flag .Z = decide (reg = m) ∧
      t.flag .N = decide (((reg.toNat : Int) - m.toNat) % 256 ≥ 128) ∧ straight i n s t ∧
      frame [] [.N, .Z, .C] [] s t := by
  have heffect : Effect [] [.N, .Z, .C] [] False s ((s.pastInstr i).compare reg m) := Effect.pastInstr.compare reg m
  exact ⟨_, hexec, getFlag_compareFlags _ reg m .C, getFlag_compareFlags _ reg m .Z,
    (getFlag_compareFlags _ reg m .N).trans (msb_sub reg m), heffect.straight_finish rfl hbrk n, heffect.finish i n⟩

/-- The increments and decrements of a byte of memory, with the result as a number (R147, R150). -/
theorem completes_modify {a : Addr} {r : Byte} {k : Nat}
    (hexec : exec i s = .next (((s.pastInstr i).modify a r).finish i n)) (hr : r.toNat = k)
    (hbrk : isBreak i = false := by rfl) :
    completes i s fun t => (t.read a).toNat = k ∧ zeroNegativeOf (t.read a) t ∧ straight i n s t ∧
      frame [] [.N, .Z] [a] s t := by
  have heffect : Effect [] [.N, .Z] [a] False s ((s.pastInstr i).modify a r) := Effect.pastInstr.modify r
  have hread : (((s.pastInstr i).modify a r).finish i n).read a = r := State.read_write_same ..
  refine ⟨_, hexec, ?_, ?_, heffect.straight_finish rfl hbrk n, heffect.finish i n⟩ <;> rw [hread]
  · exact hr
  · exact zeroNegativeOf_setZN _ r

/-- The increments and decrements of a register, with the result as a number (R148, R149, R151, R152). -/
theorem completes_load_toNat (q : Reg) {r : Byte} {k : Nat}
    (hexec : exec i s = .next (((s.pastInstr i).load q r).finish i n)) (hr : r.toNat = k)
    (hq : q ≠ .P := by decide) (hbrk : isBreak i = false := by rfl) :
    completes i s fun t => (t.reg q).toNat = k ∧ zeroNegativeOf (t.reg q) t ∧ straight i n s t ∧
      frame [q] [.N, .Z] [] s t := by
  obtain ⟨t, ht, hreg, hrest⟩ := completes_load q (fs := [.N, .Z]) hexec hq hbrk
  exact ⟨t, ht, by rw [hreg, hr], by rwa [hreg]⟩

end

/-! #### The rules -/

theorem toNat_add_one (v : Byte) : (v + 1).toNat = (v.toNat + 1) % 256 := BitVec.toNat_add ..

theorem toNat_sub_one (v : Byte) : (v - 1).toNat = (v.toNat + 255) % 256 :=
  (BitVec.toNat_sub ..).trans (congrArg (· % 256) (Nat.add_comm ..))

/-- Settles O29: each is `State.load` of its register's value plus or minus one. -/
theorem registerIncrementsWrapSilently : Obligations.RegisterIncrementsWrapSilently :=
  ⟨encodings_of_opcodeGroup, encodings_of_opcodeGroup, encodings_of_opcodeGroup, encodings_of_opcodeGroup,
    fun _ => completes_load_toNat .X rfl (toNat_add_one _), fun _ => completes_load_toNat .Y rfl (toNat_add_one _),
    fun _ => completes_load_toNat .X rfl (toNat_sub_one _), fun _ => completes_load_toNat .Y rfl (toNat_sub_one _)⟩

/-- Settles O28: each is `State.modify` at the effective address. -/
theorem memoryIncrementsWrapSilently : Obligations.MemoryIncrementsWrapSilently :=
  ⟨encodings_of_opcodeGroup, encodings_of_opcodeGroup, fun _ _ => completes_modify rfl (toNat_add_one _),
    fun _ _ => completes_modify rfl (toNat_sub_one _)⟩

/-- Settles O27: each is `State.compare` of its register with the operand. -/
theorem comparesAreUnsignedSubtractions : Obligations.ComparesAreUnsignedSubtractions :=
  ⟨encodings_of_opcodeGroup, encodings_of_opcodeGroup, encodings_of_opcodeGroup,
    fun _ _ => completes_compare rfl, fun _ _ => completes_compare rfl, fun _ _ => completes_compare rfl⟩

theorem exec_adc {o : ReadOperand} {s u : State} (h : (s.pastInstr (.adc o)).addWithCarry (o.value s) = u) :
    exec (.adc o) s = .next (u.finish (.adc o) (o.extra s)) := h ▸ rfl

theorem exec_sbc {o : ReadOperand} {s u : State} (h : (s.pastInstr (.sbc o)).subtractWithBorrow (o.value s) = u) :
    exec (.sbc o) s = .next (u.finish (.sbc o) (o.extra s)) := h ▸ rfl

/-- Settles O23: the three results of `addBinary`, in numbers. -/
theorem binaryAdditionSetsCarryAndOverflow : Obligations.BinaryAdditionSetsCarryAndOverflow := by
  refine ⟨encodings_of_opcodeGroup, fun o s hD => ?_⟩
  obtain ⟨t, ht, ha, hC, hV, hrest⟩ := completes_binaryResult (exec_adc (State.addWithCarry_of_binary hD))
  refine ⟨t, ht, ?_, ?_, ?_, hrest⟩
  · rw [ha]
    exact toNat_addBinary ..
  · rw [hC]
    exact addBinary_c ..
  · rw [hV]
    exact addBinary_v ..

/-- Settles O25: the three results of `subBinary`, in numbers. -/
theorem binarySubtractionSetsBorrowAndOverflow : Obligations.BinarySubtractionSetsBorrowAndOverflow := by
  refine ⟨encodings_of_opcodeGroup, fun o s hD => ?_, subBinary_eq_addBinary_not⟩
  obtain ⟨t, ht, ha, hC, hV, hrest⟩ := completes_binaryResult (exec_sbc (State.subtractWithBorrow_of_binary hD))
  refine ⟨t, ht, ?_, ?_, ?_, hrest⟩
  · rw [ha]
    exact toNat_subBinary ..
  · rw [hC]
    exact subBinary_c ..
  · rw [hV]
    exact subBinary_v ..

/-- Settles O24: on packed BCD by the digits of `addDecimal`, otherwise by the draws of free values. -/
theorem decimalAdditionIsCorrectOnBcd : Obligations.DecimalAdditionIsCorrectOnBcd := by
  refine ⟨fun o s hD ha hm => ?_, fun o s hD hbcd =>
    completes_invalidDecimalResult (exec_adc (State.addWithCarry_of_invalidBcd hD hbcd))⟩
  obtain ⟨t, ht, hresult, hrest⟩ := completes_decimalResult (exec_adc (State.addWithCarry_of_validBcd hD ha hm))
  obtain ⟨hvalid, hdec, hcarry⟩ := addDecimal_spec hresult
  exact ⟨t, ht, hvalid, hdec, hcarry, (nibbleAdd_eq_addDecimal _ ha hm).trans hresult.symm, hrest⟩

/-- Settles O26: on packed BCD by the digits of `subDecimal`, otherwise by the draws of free values. -/
theorem decimalSubtractionIsCorrectOnBcd : Obligations.DecimalSubtractionIsCorrectOnBcd := by
  refine ⟨fun o s hD ha hm => ?_, fun o s hD hbcd =>
    completes_invalidDecimalResult (exec_sbc (State.subtractWithBorrow_of_invalidBcd hD hbcd))⟩
  obtain ⟨t, ht, hresult, hrest⟩ := completes_decimalResult (exec_sbc (State.subtractWithBorrow_of_validBcd hD ha hm))
  obtain ⟨hvalid, hdec, hcarry⟩ := subDecimal_spec ha hm hresult
  exact ⟨t, ht, hvalid, hdec, hcarry, (nibbleSub_eq_subDecimal _ ha hm).trans hresult.symm, hrest⟩

end Sys2Proof.Machine
end

section
/-! ### Logic, bit test, shifts and rotates on bytes -/

namespace Sys2Proof.Machine

/-- Two bytes have no common bit set exactly when their AND is zero (R163). -/
theorem and_beq_zero_iff (a m : Byte) :
    (a &&& m == 0) = true ↔ ∀ k : Nat, k < 8 → (a.getLsbD k && m.getLsbD k) = false := by
  simp only [beq_iff_eq, BitVec.eq_of_getLsbD_eq_iff, BitVec.getLsbD_and, BitVec.ofNat_eq_ofNat, BitVec.getLsbD_zero]

theorem getLsbD_seven (v : Byte) : v.getLsbD 7 = decide (v.toNat ≥ 128) :=
  (BitVec.msb_eq_getLsbD_last v).symm.trans (BitVec.msb_eq_decide v)

theorem getLsbD_zero_eq_decide_odd (v : Byte) : v.getLsbD 0 = decide (v.toNat % 2 = 1) := Nat.testBit_zero _

theorem toNat_shiftLeft_one (v : Byte) : (v <<< 1).toNat = 2 * v.toNat % 256 := by
  rw [BitVec.toNat_shiftLeft, Nat.shiftLeft_eq, Nat.mul_comm]

theorem toNat_ushiftRight_one (v : Byte) : (v >>> 1).toNat = v.toNat / 2 := BitVec.toNat_ushiftRight v 1

/-- The bit that ROL brings in takes the place that the shift has cleared (R166). -/
theorem toNat_rotateLeft (v : Byte) (c : Bool) : (rotateLeft v c).r.toNat = 2 * v.toNat % 256 + c.toNat := by
  have hbit : (if c then 0x01 else 0x00 : Byte).toNat = c.toNat := by cases c <;> rfl
  have hdouble : 2 * v.toNat % 256 = 2 ^ 1 * (v.toNat % 128) := by omega
  rw [rotateLeft, BitVec.toNat_or, toNat_shiftLeft_one, hbit, hdouble, Nat.two_pow_add_eq_or_of_lt (Bool.toNat_lt c)]

/-- The bit that ROR brings in takes the place that the shift has cleared (R167). -/
theorem toNat_rotateRight (v : Byte) (c : Bool) : (rotateRight v c).r.toNat = v.toNat / 2 + 128 * c.toNat := by
  have hbit : (if c then 0x80 else 0x00 : Byte).toNat = 2 ^ 7 * c.toNat := by cases c <;> rfl
  have hhalf : v.toNat / 2 < 2 ^ 7 := by omega
  rw [rotateRight, BitVec.toNat_or, toNat_ushiftRight_one, hbit, Nat.lor_comm, ← Nat.two_pow_add_eq_or_of_lt hhalf,
    Nat.add_comm]

end Sys2Proof.Machine
end

section
/-! ### Logic, bit test, shifts and rotates -/

namespace Sys2Proof.Machine

/-! #### What a shift or rotate writes -/

@[simp] theorem State.pc_putShift (s : State) (o : ShiftOperand) (r : ShiftResult) : (s.putShift o r).pc = s.pc := by
  cases o <;> rfl

/-- Advancing the program counter first does not move the operand. -/
theorem shiftedInto_putShift (o : ShiftOperand) (s : State) (i j : Instr) (r : ShiftResult) (n : Nat) :
    shiftedInto o s (((s.pastInstr i).putShift o r).finish j n) = r.r := by
  cases o with
  | acc => rfl
  | mem m =>
    rw [shiftedInto, ← MemOperand_ea_pastInstr s m i]
    exact State.read_write_same ..

theorem State.flag_C_putShift (s : State) (o : ShiftOperand) (r : ShiftResult) : (s.putShift o r).flag .C = r.c := by
  simp [State.putShift, State.flag_setZN, State.flag_setFlag]

/-! #### What an instruction made of one shared operation leaves -/

section

variable {i : Instr} {s : State} {n : Nat}

/-- The end of an instruction from its listed effect alone, where it leaves the program counter past itself. -/
theorem straight_of_exec {u : State} (hexec : exec i s = .next (u.finish i n)) (hpc : u.pc = (s.pastInstr i).pc)
    (hbrk : isBreak i = false) (hdraws : ¬ drawsFree i s) : straight i n s (u.finish i n) :=
  ⟨hpc, ⟨exec_cyc hexec, congrArg (StepResult.mk _) hbrk⟩, exec_freeCtr hexec hdraws⟩

/-- AND, ORA and EOR, with the result bit by bit (R160, R161, R162). -/
theorem completes_load_bits {v : Byte} {b : Nat → Bool}
    (hexec : exec i s = .next (((s.pastInstr i).load .A v).finish i n)) (hbits : ∀ k : Nat, v.getLsbD k = b k)
    (hbrk : isBreak i = false := by rfl) :
    completes i s fun t => (∀ k : Nat, k < 8 → t.a.getLsbD k = b k) ∧ zeroNegativeOf t.a t ∧ straight i n s t ∧
      frame [.A] [.N, .Z] [] s t := by
  obtain ⟨t, ht, rfl, hrest⟩ := completes_load .A (fs := [.N, .Z]) hexec (hbrk := hbrk)
  exact ⟨t, ht, fun k _ => hbits k, hrest⟩

/-- BIT (R163). -/
theorem completes_bitFlags {v : Byte}
    (hexec : exec i s = .next (((s.pastInstr i).setReg .P (bitFlags s.p s.a v)).finish i n))
    (hbrk : isBreak i = false := by rfl) :
    completes i s fun t =>
      (t.flag .Z = true ↔ ∀ k : Nat, k < 8 → (s.a.getLsbD k && v.getLsbD k) = false) ∧
      t.flag .N = v.getLsbD 7 ∧ t.flag .V = v.getLsbD 6 ∧ straight i n s t ∧ frame [] [.N, .V, .Z] [] s t := by
  have heffect : Effect [] [.N, .V, .Z] [] False s ((s.pastInstr i).setReg .P (bitFlags s.p s.a v)) :=
    Effect.pastInstr.bitFlags s.a v
  refine ⟨_, hexec, ?_, getFlag_bitFlags _ s.a v .N, getFlag_bitFlags _ s.a v .V, heffect.straight_finish rfl hbrk n,
    heffect.finish i n⟩
  have hZ := getFlag_bitFlags s.p s.a v .Z
  exact (Bool.eq_iff_iff.mp hZ).trans (and_beq_zero_iff s.a v)

/-- The shifts and rotates, with the result as a number and the bit shifted out (R164 to R167). -/
theorem shifts_of_putShift {o : ShiftOperand} {r : ShiftResult} {k : Nat} {c : Bool}
    (hexec : exec i s = .next (((s.pastInstr i).putShift o r).finish i 0)) (hr : r.r.toNat = k) (hc : r.c = c)
    (hbrk : isBreak i = false := by rfl) (hflags : flagsWritten i = [.N, .Z, .C] := by rfl)
    (hdraws : ¬ drawsFree i s := by simp [drawsFree, Instr.mnemonic]) : shifts i o k c s := by
  have hframe := exec_frame hexec
  rw [hflags] at hframe
  refine ⟨_, hexec, ?_, (State.flag_C_putShift ..).trans hc, ?_,
    straight_of_exec hexec (State.pc_putShift ..) hbrk hdraws, hframe⟩ <;> rw [shiftedInto_putShift]
  · exact hr
  · exact zeroNegativeOf_setZN _ r.r

end

/-! #### The rules -/

/-- Settles O30: each is `State.load` of its bitwise operation on A and the operand. -/
theorem logicalOperationsActBitByBit : Obligations.LogicalOperationsActBitByBit :=
  ⟨encodings_of_opcodeGroup, encodings_of_opcodeGroup, encodings_of_opcodeGroup,
    fun _ _ => completes_load_bits rfl fun _ => BitVec.getLsbD_and,
    fun _ _ => completes_load_bits rfl fun _ => BitVec.getLsbD_or,
    fun _ _ => completes_load_bits rfl fun _ => BitVec.getLsbD_xor⟩

/-- Settles O31: the flags of `bitFlags`, bit by bit. -/
theorem bitTestCopiesOperandBits : Obligations.BitTestCopiesOperandBits :=
  ⟨encodings_of_opcodeGroup, fun _ _ => completes_bitFlags rfl⟩

/-- Settles O32: each is `State.putShift` of its result, in numbers. -/
theorem shiftsAndRotatesMoveThroughCarry : Obligations.ShiftsAndRotatesMoveThroughCarry :=
  ⟨encodings_of_opcodeGroup, encodings_of_opcodeGroup, encodings_of_opcodeGroup, encodings_of_opcodeGroup,
    fun _ _ => shifts_of_putShift rfl (toNat_shiftLeft_one _) (getLsbD_seven _),
    fun _ _ => shifts_of_putShift rfl (toNat_ushiftRight_one _) (getLsbD_zero_eq_decide_odd _),
    fun _ _ => shifts_of_putShift rfl (toNat_rotateLeft _ _) (getLsbD_seven _),
    fun _ _ => shifts_of_putShift rfl (toNat_rotateRight _ _) (getLsbD_zero_eq_decide_odd _)⟩

end Sys2Proof.Machine
end

section
/-! ### Calls and returns -/

namespace Sys2Proof.Machine

/-! #### The two-byte push and pull -/

theorem State.sp_pushWord_eq_sub_two (s : State) (w : Addr) : (s.pushWord w).sp = s.sp - 2 := by
  rw [State.sp_pushWord]
  bv_omega

theorem State.sp_poppedWord_eq_add_two (s : State) : s.poppedWord.sp = s.sp + 2 := by
  rw [State.sp_poppedWord, BitVec.add_assoc]
  rfl

theorem State.pulledWord_eq_add_two (s : State) :
    s.pulledWord = word (s.read (stackAddr (s.sp + 2))) (s.read (stackAddr (s.sp + 1))) := by
  rw [State.pulledWord_eq, BitVec.add_assoc]
  rfl

theorem State.read_pushWord_lo (s : State) (w : Addr) : (s.pushWord w).read (stackAddr (s.sp - 1)) = lo w := by
  rw [State.read_pushWord, if_pos rfl]

/-- The high byte stays where it is: the low byte goes to another location, also when SP wraps (R54). -/
theorem State.read_pushWord_hi (s : State) (w : Addr) : (s.pushWord w).read (stackAddr s.sp) = hi w := by
  have hne : s.sp ≠ s.sp - 1 := by bv_omega
  rw [State.read_pushWord, if_neg (mt stackAddr_inj.mp hne), if_pos rfl]

/-! #### The rules -/

/-- The address that JSR pushes is that of its own last byte (R181). -/
theorem State.pc_pastInstr_jsr_sub_one (s : State) (target : Addr) : (s.pastInstr (.jsr target)).pc - 1 = s.pc + 2 := by
  have hlength : (Instr.jsr target).length = 3 := rfl
  rw [State.pc_pastInstr, hlength]
  bv_omega

/-- JSR as one push of a word, one move of the program counter and one end of the step (R181). -/
theorem exec_jsr (target : Addr) (s : State) :
    exec (.jsr target) s = .next (((s.pushWord (s.pc + 2)).setPC target).finish (.jsr target) 0) := by
  rw [← State.pc_pastInstr_jsr_sub_one s target]
  rfl

theorem exec_rts (s : State) : exec .rts s = .next ((s.poppedWord.setPC (s.pulledWord + 1)).finish .rts 0) := rfl

theorem effect_call (s : State) (w target : Addr) :
    Effect [.SP] [] [stackAddr s.sp, stackAddr (s.sp - 1)] False s ((s.pushWord w).setPC target) :=
  (Effect.refl.pushWord w (.head _) (.head _) (.tail _ (.head _))).setPC target

theorem effect_return (s : State) (target : Addr) : Effect [.SP] [] [] False s (s.poppedWord.setPC target) :=
  (Effect.refl.poppedWord (.head _)).setPC target

/-- Settles O34: JSR by the rules of the two-byte push, RTS by those of the pull, and the rest as effects of the two. -/
theorem callPushesItsLastByteAddress : Obligations.CallPushesItsLastByteAddress := by
  refine ⟨encodings_of_opcodeGroup, encodings_of_opcodeGroup, fun target s => ?_, fun s => ?_⟩
  · have heffect := effect_call s (s.pc + 2) target
    refine ⟨_, exec_jsr target s, rfl, ?_, ?_, ?_, heffect.costs_finish rfl 0, heffect.finish (.jsr target) 0,
      heffect.freeCtr id⟩
    · rw [State.sp_finish, State.sp_setPC, State.sp_pushWord_eq_sub_two]
    · rw [State.read_finish, State.read_setPC, State.read_pushWord_hi]
    · rw [State.read_finish, State.read_setPC, State.read_pushWord_lo]
  · have heffect := effect_return s (s.pulledWord + 1)
    refine ⟨_, exec_rts s, ?_, ?_, heffect.costs_finish rfl 0, heffect.finish .rts 0, heffect.freeCtr id⟩
    · rw [State.pc_finish, State.pc_setPC, State.pulledWord_eq_add_two]
    · rw [State.sp_finish, State.sp_setPC, State.sp_poppedWord_eq_add_two]

/-- `exec` answers one next state, so that a rule stated by `completes` speaks of any next state given. -/
theorem of_completes {i : Instr} {s t : State} {post : State → Prop} (h : completes i s post)
    (ht : exec i s = .next t) : post t := by
  obtain ⟨t', ht', hpost⟩ := h
  obtain rfl : t' = t := Host.Outcome.next.inj (ht'.symm.trans ht)
  exact hpost

/-- Settles O35: by the rules of JSR and RTS, the word pulled lying where it was pushed. -/
theorem returnResumesAfterTheCall : Obligations.ReturnResumesAfterTheCall := by
  intro s t u target pc ht hu
  obtain ⟨-, -, hjsr, hrts⟩ := callPushesItsLastByteAddress
  obtain ⟨-, htsp, hhigh, hlow, -, ⟨htregs, htflags, -, -⟩, -⟩ := of_completes (hjsr target s) ht
  obtain ⟨hupc, husp, -, ⟨huregs, huflags, -, -⟩, -⟩ := of_completes (hrts (t.setPC pc)) hu
  have hback : t.sp + 2 = s.sp := by rw [htsp, BitVec.sub_add_cancel]
  have hbelow : t.sp + 1 = s.sp - 1 := by
    rw [htsp]
    bv_omega
  have hsp : u.sp = s.sp := husp.trans hback
  refine ⟨?_, hsp, status_ext fun f => ?_, fun r hP _ => ?_⟩
  · rw [hupc, State.sp_setPC, State.read_setPC, State.read_setPC, hback, hbelow, hhigh, hlow, word_hi_lo,
      BitVec.add_assoc]
    rfl
  · exact (huflags f List.not_mem_nil).trans (htflags f List.not_mem_nil)
  · by_cases hr : r = .SP
    · exact hr ▸ hsp
    · have hne : r ∉ [Reg.SP] := by simpa using hr
      exact (huregs r hP hne).trans ((t.reg_setPC pc r).trans (htregs r hP hne))

end Sys2Proof.Machine
end

section
/-! ### Stack and flag instructions -/

namespace Sys2Proof.Machine

/-! #### The two operations the family shares -/

section

variable {i : Instr} {s : State} {n : Nat}

/-- An instruction that pushes one byte: PHA and PHP. -/
theorem completes_push {v : Byte} (hexec : exec i s = .next (((s.pastInstr i).push v).finish i n))
    (hbrk : isBreak i = false := by rfl) :
    completes i s fun t => t.read (stackAddr s.sp) = v ∧ t.sp = s.sp - 1 ∧ t.p = s.p ∧ straight i n s t ∧
      frame [.SP] [] [stackAddr s.sp] s t := by
  have heffect : Effect [.SP] [] [stackAddr s.sp] False s ((s.pastInstr i).push v) :=
    Effect.pastInstr.push v (.head _) (.head _)
  have hread : ((s.pastInstr i).push v).read (stackAddr s.sp) = v := (State.read_push ..).trans (if_pos rfl)
  exact ⟨_, hexec, hread, rfl, rfl, heffect.straight_finish rfl hbrk n, heffect.finish i n⟩

/-- An instruction that writes one flag: the flag instructions. -/
theorem completes_setFlag {f : Flag} {b : Bool} (hexec : exec i s = .next (((s.pastInstr i).setFlag f b).finish i n))
    (hbrk : isBreak i = false := by rfl) :
    completes i s fun t => t.flag f = b ∧ straight i n s t ∧ frame [] [f] [] s t := by
  have heffect : Effect [] [f] [] False s ((s.pastInstr i).setFlag f b) := Effect.pastInstr.setFlag b (.head _)
  exact ⟨_, hexec, getFlag_setFlag_same .., heffect.straight_finish rfl hbrk n, heffect.finish i n⟩

end

/-! #### The pushed status -/

theorem getFlag_pushedStatus_eq_or (s : State) (f : Flag) :
    getFlag (pushedStatus s.p) f = (f == .B || f == .U || s.flag f) := by
  rw [getFlag_pushedStatus]
  cases f <;> rfl

/-! #### The rules -/

/-- PHP pushes the status with bits 4 and 5 set and leaves the register (R202). -/
theorem completes_php (s : State) :
    completes .php s fun t => t.sp = s.sp - 1 ∧ t.p = s.p ∧
      (∀ f, getFlag (t.read (stackAddr s.sp)) f = (f == .B || f == .U || s.flag f)) ∧
      straight .php 0 s t ∧ frame [.SP] [] [stackAddr s.sp] s t := by
  obtain ⟨t, ht, hread, hsp, hp, hrest⟩ := completes_push (i := .php) (s := s) rfl
  exact ⟨t, ht, hsp, hp, fun f => by rw [hread, getFlag_pushedStatus_eq_or], hrest⟩

/-- PLA is a pop and a load of the pulled byte (R201). -/
theorem completes_pla (s : State) :
    completes .pla s fun t => t.a = s.read (stackAddr (s.sp + 1)) ∧ zeroNegativeOf t.a t ∧ t.sp = s.sp + 1 ∧
      straight .pla 0 s t ∧ frame [.A, .SP] [.N, .Z] [] s t := by
  have heffect : Effect [.A, .SP] [.N, .Z] [] False s ((s.pastInstr .pla).popped.load .A s.pulled) :=
    (Effect.pastInstr.popped (by decide)).load _ (by decide) (by decide) (by decide) (by decide)
  exact ⟨_, rfl, rfl, zeroNegativeOf_load _ _ (by decide), rfl, heffect.straight_finish rfl rfl 0,
    heffect.finish .pla 0⟩

/-- PLP is a pop and a write of the pulled flags (R203); the frame, which lists neither bit 4 nor bit 5, keeps them. -/
theorem completes_plp (s : State) :
    completes .plp s fun t => t.sp = s.sp + 1 ∧
      (∀ f, f ≠ .B → f ≠ .U → t.flag f = getFlag (s.read (stackAddr (s.sp + 1))) f) ∧
      straight .plp 0 s t ∧ frame [.SP] [.N, .V, .D, .I, .Z, .C] [] s t := by
  have heffect : Effect [.SP] [.N, .V, .D, .I, .Z, .C] [] False s
      ((s.pastInstr .plp).popped.setReg .P (pulledStatus s.p s.pulled)) :=
    (Effect.pastInstr.popped (.head _)).pulledStatus _
  have hflag : ∀ f, f ≠ .B → f ≠ .U → getFlag (pulledStatus s.p s.pulled) f = getFlag s.pulled f := fun f hB hU => by
    rw [getFlag_pulledStatus, if_neg (not_or_intro hB hU)]
  exact ⟨_, rfl, rfl, hflag, heffect.straight_finish rfl rfl 0, heffect.finish .plp 0⟩

/-- Settles O37: PHA and PHP are `State.push`, PLA and PLP `State.popped` and a write of the pulled byte. -/
theorem stackInstructionsPushAndPull : Obligations.StackInstructionsPushAndPull := by
  refine ⟨encodings_of_opcodeGroup, encodings_of_opcodeGroup, encodings_of_opcodeGroup, encodings_of_opcodeGroup,
    fun s => ?_, completes_php, completes_pla, completes_plp⟩
  obtain ⟨t, ht, hread, hsp, -, hrest⟩ := completes_push (i := .pha) (s := s) rfl
  exact ⟨t, ht, hread, hsp, hrest⟩

/-- Settles O38: each is `State.setFlag` of its flag. -/
theorem flagInstructionsWriteOneFlag : Obligations.FlagInstructionsWriteOneFlag :=
  ⟨encodings_of_opcodeGroup, encodings_of_opcodeGroup, encodings_of_opcodeGroup, encodings_of_opcodeGroup,
    encodings_of_opcodeGroup, encodings_of_opcodeGroup, encodings_of_opcodeGroup,
    fun _ => completes_setFlag rfl, fun _ => completes_setFlag rfl, fun _ => completes_setFlag rfl,
    fun _ => completes_setFlag rfl, fun _ => completes_setFlag rfl, fun _ => completes_setFlag rfl,
    fun _ => completes_setFlag rfl⟩

end Sys2Proof.Machine
end

section
/-! ### The break trap and the return from it -/

namespace Sys2Proof.Machine

/-! #### The trap entry -/

theorem State.sp_takeBreak_eq_sub_three (s : State) (ret : Addr) : (s.takeBreak ret).sp = s.sp - 3 := by
  rw [State.sp_takeBreak]
  bv_omega

/-- The high byte stays where it is: the two later pushes go to other locations, also when SP wraps (R54). -/
theorem State.read_takeBreak_hi (s : State) (ret : Addr) : (s.takeBreak ret).read (stackAddr s.sp) = hi ret := by
  have hstatus : s.sp ≠ s.sp - 1 - 1 := by bv_omega
  have hlow : s.sp ≠ s.sp - 1 := by bv_omega
  rw [State.read_takeBreak, if_neg (mt stackAddr_inj.mp hstatus), if_neg (mt stackAddr_inj.mp hlow), if_pos rfl]

theorem State.read_takeBreak_lo (s : State) (ret : Addr) : (s.takeBreak ret).read (stackAddr (s.sp - 1)) = lo ret := by
  have hstatus : s.sp - 1 ≠ s.sp - 1 - 1 := by bv_omega
  rw [State.read_takeBreak, if_neg (mt stackAddr_inj.mp hstatus), if_pos rfl]

/-- The status is pushed before I is set, so that the stacked copy holds the old I (R220). -/
theorem State.read_takeBreak_status (s : State) (ret : Addr) :
    (s.takeBreak ret).read (stackAddr (s.sp - 2)) = pushedStatus s.p := by
  have hsp : s.sp - 2 = s.sp - 1 - 1 := by bv_omega
  rw [State.read_takeBreak, hsp, if_pos rfl]

/-- The vector lies in the last two bytes of memory, and is read after the pushes. -/
theorem State.pc_takeBreak_eq_word (s : State) (ret : Addr) :
    (s.takeBreak ret).pc = word ((s.takeBreak ret).read 0xFFFF) ((s.takeBreak ret).read 0xFFFE) := rfl

/-- The trap entry writes SP, I and the three stack locations from the old SP down. -/
theorem effect_break (s : State) (ret : Addr) :
    Effect [.SP] [.I] [stackAddr s.sp, stackAddr (s.sp - 1), stackAddr (s.sp - 2)] False s (s.takeBreak ret) := by
  have hsp : s.sp - 1 - 1 = s.sp - 2 := by bv_omega
  exact Effect.refl.takeBreak ret (.head _) (.tail _ (.head _)) (.tail _ (.tail _ (hsp ▸ .head _)))

/-! #### The return -/

theorem State.sp_returnFromBreak_eq_add_three (s : State) : s.returnFromBreak.sp = s.sp + 3 := by
  rw [State.sp_returnFromBreak]
  bv_omega

theorem State.pc_returnFromBreak_eq_word (s : State) :
    s.returnFromBreak.pc = word (s.read (stackAddr (s.sp + 3))) (s.read (stackAddr (s.sp + 2))) := by
  have htwo : s.sp + 1 + 1 = s.sp + 2 := by bv_omega
  have hthree : s.sp + 2 + 1 = s.sp + 3 := by bv_omega
  rw [State.pc_returnFromBreak, htwo, hthree]

theorem State.flag_returnFromBreak (s : State) {f : Flag} (hB : f ≠ .B) (hU : f ≠ .U) :
    s.returnFromBreak.flag f = getFlag (s.read (stackAddr (s.sp + 1))) f := by
  rw [State.flag, State.p_returnFromBreak, getFlag_pulledStatus, if_neg (not_or_intro hB hU), State.pulled_eq]

/-! #### The rules -/

/-- BRK as one trap entry and one end of the step: the address pushed is that of the BRK plus 2 (R220). -/
theorem exec_brk (s : State) : exec .brk s = .next ((s.takeBreak (s.pc + 2)).finish .brk 0) := by
  have hret : s.pc + 2 = s.pc + 1 + 1 := by bv_omega
  rw [hret]
  rfl

theorem exec_rti (s : State) : exec .rti s = .next (s.returnFromBreak.finish .rti 0) := rfl

/-- Settles O39: BRK is `State.takeBreak`, whose three bytes lie apart, and the rest is its effect. -/
theorem breakTakesTheTrap : Obligations.BreakTakesTheTrap := by
  refine ⟨encodings_of_opcodeGroup, fun s => ?_⟩
  have heffect := effect_break s (s.pc + 2)
  refine ⟨_, exec_brk s, ?_, ?_, fun f => ?_, ?_, ?_, ?_, congrArg (· + 7) heffect.cyc, rfl, heffect.freeCtr id,
    heffect.finish .brk 0⟩
  · rw [State.read_finish, State.read_takeBreak_hi]
  · rw [State.read_finish, State.read_takeBreak_lo]
  · rw [State.read_finish, State.read_takeBreak_status, getFlag_pushedStatus_eq_or]
  · rw [State.sp_finish, State.sp_takeBreak_eq_sub_three]
  · rw [State.flag_finish, State.flag_takeBreak, if_pos rfl]
  · rw [State.pc_finish, State.read_finish, State.read_finish, State.pc_takeBreak_eq_word]

/-- Settles O40: RTI is `State.returnFromBreak`; the frame, which lists neither bit 4 nor bit 5, keeps them. -/
theorem returnFromInterruptRestores : Obligations.ReturnFromInterruptRestores := by
  refine ⟨encodings_of_opcodeGroup, fun s => ?_⟩
  have heffect : Effect [.SP] [.N, .V, .D, .I, .Z, .C] [] False s s.returnFromBreak := Effect.refl.returnFromBreak
  exact ⟨_, exec_rti s, fun _ => s.flag_returnFromBreak, s.pc_returnFromBreak_eq_word,
    s.sp_returnFromBreak_eq_add_three, heffect.costs_finish rfl 0, heffect.freeCtr id, heffect.finish .rti 0⟩

end Sys2Proof.Machine
end

section
/-! ### The records of the disassembler -/

namespace Sys2Proof.Machine

theorem one_le_length_and_length_le_three (m : Mode) : 1 ≤ m.length ∧ m.length ≤ 3 := by
  cases m <;> decide

theorem length_bytes_decodeOne (placeholder : String) (buf : List Byte) (off : Nat) (base : Addr) :
    (decodeOne placeholder buf off base).bytes.length = (tableMode (byteAt buf off)).length := by
  simp [decodeOne]

/-- The first byte a record consumes is the opcode byte that decided how many. -/
theorem headD_bytes_decodeOne (placeholder : String) (buf : List Byte) (off : Nat) (base : Addr) :
    (decodeOne placeholder buf off base).bytes.headD 0 = byteAt buf off := by
  simp [decodeOne, Mode.length, List.range_succ_eq_map]

section
variable {placeholder : String} {buf : List Byte} {base : Addr} {stop : Nat}

theorem disassembleFrom_of_lt {fuel off : Nat} (h : off < stop) :
    disassembleFrom placeholder buf base stop (fuel + 1) off = decodeOne placeholder buf off base ::
      disassembleFrom placeholder buf base stop fuel (off + (decodeOne placeholder buf off base).bytes.length) :=
  if_pos h

theorem disassembleFrom_of_le {off : Nat} (fuel : Nat) (h : stop ≤ off) :
    disassembleFrom placeholder buf base stop fuel off = [] := by
  cases fuel with
  | zero => rfl
  | succ fuel => exact if_neg (Nat.not_lt.mpr h)

/-- Record `k` is decoded where the records before it end. -/
theorem getElem?_disassembleFrom (fuel off k : Nat)
    (hk : k < (disassembleFrom placeholder buf base stop fuel off).length) :
    (disassembleFrom placeholder buf base stop fuel off)[k]? = some (decodeOne placeholder buf
      (off + (((disassembleFrom placeholder buf base stop fuel off).take k).map (·.bytes.length)).sum) base) := by
  induction fuel generalizing off k with
  | zero => exact absurd hk (Nat.not_lt_zero k)
  | succ fuel ih =>
    obtain h | h := Nat.lt_or_ge off stop
    · rw [disassembleFrom_of_lt h] at hk ⊢
      cases k with
      | zero => rfl
      | succ k =>
        rw [List.getElem?_cons_succ, ih _ k (Nat.lt_of_succ_lt_succ hk), List.take_succ_cons, List.map_cons,
          List.sum_cons, Nat.add_assoc]
    · rw [disassembleFrom_of_le _ h] at hk
      exact absurd hk (Nat.not_lt_zero k)

theorem length_bytes_of_mem_disassembleFrom {d : DisassembledInstruction} (fuel off : Nat)
    (hd : d ∈ disassembleFrom placeholder buf base stop fuel off) :
    d.bytes.length = (tableMode (d.bytes.headD 0)).length := by
  obtain ⟨k, hk⟩ := List.getElem?_of_mem hd
  obtain ⟨hlt, -⟩ := List.getElem?_eq_some_iff.mp hk
  obtain rfl := Option.some.inj (hk.symm.trans (getElem?_disassembleFrom fuel off k hlt))
  rw [headD_bytes_decodeOne, length_bytes_decodeOne]

/-- With fuel for a byte each, the records reach the end of the range and the last of them begins before it. -/
theorem disassembleFrom_reaches (fuel off : Nat) (hfuel : stop ≤ off + fuel) :
    stop ≤ off + ((disassembleFrom placeholder buf base stop fuel off).map (·.bytes.length)).sum ∧
    (off < stop → off + ((disassembleFrom placeholder buf base stop fuel off).map (·.bytes.length)).sum < stop + 3) := by
  induction fuel generalizing off with
  | zero => exact ⟨hfuel, fun h => absurd h (Nat.not_lt.mpr hfuel)⟩
  | succ fuel ih =>
    obtain h | h := Nat.lt_or_ge off stop
    · obtain ⟨hpos, hle⟩ := one_le_length_and_length_le_three (tableMode (byteAt buf off))
      rw [← length_bytes_decodeOne placeholder buf off base] at hpos hle
      obtain ⟨hreach, hlast⟩ := ih (off + (decodeOne placeholder buf off base).bytes.length) (by omega)
      rw [disassembleFrom_of_lt h, List.map_cons, List.sum_cons, ← Nat.add_assoc]
      refine ⟨hreach, fun _ => ?_⟩
      obtain hnext | hnext := Nat.lt_or_ge (off + (decodeOne placeholder buf off base).bytes.length) stop
      · exact hlast hnext
      · rw [disassembleFrom_of_le _ hnext, List.map_nil, List.sum_nil]
        omega
    · exact ⟨Nat.le_add_right_of_le h, fun hlt => absurd hlt (Nat.not_lt.mpr h)⟩

end

/-- Settles O55: by the walk, whose fuel is one for each byte of the range. -/
theorem disassemblyTilesTheRange : Obligations.DisassemblyTilesTheRange := by
  intro placeholder buf base start stop records
  obtain ⟨hreach, hlast⟩ := disassembleFrom_reaches (placeholder := placeholder) (buf := buf) (base := base)
    (stop - start) start (by omega : stop ≤ start + (stop - start))
  exact ⟨getElem?_disassembleFrom _ _, fun _ => length_bytes_of_mem_disassembleFrom _ _, hreach, hlast,
    disassembleFrom_of_le _⟩

/-! ### The printed target of a branch -/

theorem relativeTarget_eq_branchTarget (pc : Addr) (off : Byte) : relativeTarget pc off = branchTarget (pc + 2) off := rfl

/-- Settles O56: a taken branch goes to `branchTarget`, counted from the address after it. -/
theorem printedBranchTargetIsWhereTheBranchGoes : Obligations.PrintedBranchTargetIsWhereTheBranchGoes := by
  intro i s off h
  exact ⟨_, exec_of_branchOf h, (relativeTarget_eq_branchTarget s.pc off).symm⟩

end Sys2Proof.Machine
end

section
/-! ### Hexadecimal text -/

namespace Sys2Proof.Machine

/-- The sixteen digits that hexadecimal text is made of (R237). -/
def hexDigits : Chars := "0123456789ABCDEF".toList

theorem hexValue_hexDigit : ∀ n < 16, hexValue (hexDigit n) = some n := by decide

theorem hexDigit_mem_hexDigits : ∀ n < 16, hexDigit n ∈ hexDigits := by decide

theorem mem_hexDigits_of_mem_hexByte {b : Byte} {c : Char} (h : c ∈ hexByte b) : c ∈ hexDigits := by
  have := b.isLt
  simp only [hexByte, List.mem_cons, List.not_mem_nil, or_false] at h
  obtain rfl | rfl := h <;> exact hexDigit_mem_hexDigits _ (by omega)

theorem digitsValue_hexByte (acc : Nat) (b : Byte) (t : Chars) :
    digitsValue 16 acc (hexByte b ++ t) = digitsValue 16 (acc * 256 + b.toNat) t := by
  have := b.isLt
  have hhi : b.toNat / 16 < 16 := by omega
  have hlo : b.toNat % 16 < 16 := by omega
  have hsum : (acc * 16 + b.toNat / 16) * 16 + b.toNat % 16 = acc * 256 + b.toNat := by omega
  simp only [hexByte, List.cons_append, List.nil_append, digitsValue, hexValue_hexDigit _ hhi, hexValue_hexDigit _ hlo,
    if_pos hhi, if_pos hlo, hsum]

/-- The characters are hexadecimal digits and denote the number. -/
structure Denotes (ds : Chars) (n : Nat) : Prop where
  number : number 16 ds = some n
  digits : ∀ c ∈ ds, c ∈ hexDigits

theorem denotes_hexByte (b : Byte) : Denotes (hexByte b) b.toNat where
  number := by
    have hvalue := digitsValue_hexByte 0 b []
    rw [List.append_nil, Nat.zero_mul, Nat.zero_add] at hvalue
    exact hvalue
  digits _ := mem_hexDigits_of_mem_hexByte

theorem denotes_hexWord (w : Addr) : Denotes (hexWord w) w.toNat where
  number := by
    have hvalue := (digitsValue_hexByte 0 (hi w) (hexByte (lo w) ++ [])).trans (digitsValue_hexByte ..)
    rw [List.append_nil, Nat.zero_mul, Nat.zero_add, ← toNat_word, word_hi_lo] at hvalue
    exact hvalue
  digits c hc := (List.mem_append.mp hc).elim mem_hexDigits_of_mem_hexByte mem_hexDigits_of_mem_hexByte

theorem Denotes.literalUpTo {ds : Chars} {n : Nat} (h : Denotes ds n) (limit : Nat) :
    literalUpTo limit ('$' :: ds) = if n ≤ limit then some n else none := by
  rw [Machine.literalUpTo, literal, h.number, Option.filter_some]
  simp only [decide_eq_true_eq]

theorem Denotes.not_mem {ds : Chars} {n : Nat} (h : Denotes ds n) {c : Char} (hc : c ∉ hexDigits) : c ∉ ds :=
  fun hmem => hc (h.digits c hmem)

/-! ### Splitting text that does not hold the separator -/

theorem splitOn_append {sep : Char} {t : Chars} (h : sep ∉ t) (r : Chars) :
    splitOn sep (t ++ sep :: r) = t :: splitOn sep r := by
  induction t with
  | nil => exact if_pos rfl
  | cons c cs ih =>
    rw [List.mem_cons, not_or] at h
    rw [List.cons_append, splitOn, if_neg (Ne.symm h.1), ih h.2]

theorem splitOn_of_not_mem {sep : Char} {t : Chars} (h : sep ∉ t) : splitOn sep t = [t] := by
  induction t with
  | nil => rfl
  | cons c cs ih =>
    rw [List.mem_cons, not_or] at h
    rw [splitOn, if_neg (Ne.symm h.1), ih h.2]

theorem splitFirst_of_not_mem {sep : Char} {t : Chars} (h : sep ∉ t) : splitFirst sep t = none := by
  induction t with
  | nil => rfl
  | cons c cs ih =>
    rw [List.mem_cons, not_or] at h
    rw [splitFirst, if_neg (Ne.symm h.1), ih h.2, Option.map_none]

theorem splitOn_ne_nil (sep : Char) (t : Chars) : splitOn sep t ≠ [] := by
  cases t with
  | nil => simp [splitOn]
  | cons c cs =>
    rw [splitOn]
    split
    · simp
    · split <;> simp

end Sys2Proof.Machine
end

section
/-! ### A source line of a mnemonic and an operand -/

namespace Sys2Proof.Machine

/-- A character that cleaning a source line leaves in place and that ends no word, label, string or line. -/
def isPlain (c : Char) : Bool := c.toUpper == c && !isBlank c && !([';', ':', '"'].contains c)

/-- A mnemonic and an operand as the disassembler prints them: one space between, none without an operand (R232). -/
def printedLine (name t : Chars) : Chars := name ++ if t = [] then [] else ' ' :: t

theorem isPlain_of_mem_name {mn : Mnemonic} : ∀ c ∈ (Mnemonic.name mn).toList, isPlain c = true :=
  List.all_eq_true.mp (by cases mn <;> decide)

theorem name_ne_nil (mn : Mnemonic) : (Mnemonic.name mn).toList ≠ [] := by
  cases mn <;> decide

theorem mnemonicOf_name {mn : Mnemonic} (hU : mn ≠ .UND) : mnemonicOf (Mnemonic.name mn).toList = some mn := by
  cases mn with
  | UND => exact absurd rfl hU
  | _ => decide

theorem isBlank_of_isPlain {c : Char} (h : isPlain c = true) : isBlank c = false := by
  simp only [isPlain, Bool.and_eq_true, Bool.not_eq_true'] at h
  obtain ⟨⟨-, hblank⟩, -⟩ := h
  exact hblank

theorem not_isBlank_of_isPlain {c : Char} (h : isPlain c = true) : (!isBlank c) = true :=
  congrArg not (isBlank_of_isPlain h)

theorem toUpper_of_isPlain {c : Char} (h : isPlain c = true) : c.toUpper = c := by
  simp only [isPlain, Bool.and_eq_true, beq_iff_eq] at h
  obtain ⟨⟨hupper, -⟩, -⟩ := h
  exact hupper

/-! #### Cleaning and cutting text -/

theorem upperOutsideStrings_of_upper {t : Chars} (hupper : ∀ c ∈ t, c.toUpper = c) (hquote : '"' ∉ t) :
    upperOutsideStrings false t = t := by
  induction t with
  | nil => rfl
  | cons c cs ih =>
    rw [List.forall_mem_cons] at hupper
    rw [List.mem_cons, not_or] at hquote
    rw [upperOutsideStrings, if_neg (Ne.symm hquote.1), if_neg Bool.false_ne_true, hupper.1, ih hupper.2 hquote.2]

theorem dropWhile_of_head? {p : Char → Bool} {t : Chars} (h : ∀ c ∈ t.head?, p c = false) : t.dropWhile p = t := by
  cases t with
  | nil => rfl
  | cons c cs => exact List.dropWhile_cons_of_neg (by simp [h c rfl])

theorem trim_of_ends {t : Chars} (hfirst : ∀ c ∈ t.head?, isBlank c = false)
    (hlast : ∀ c ∈ t.getLast?, isBlank c = false) : trim t = t := by
  rw [← List.head?_reverse] at hlast
  rw [trim, dropWhile_of_head? hfirst, dropWhile_of_head? hlast, List.reverse_reverse]

theorem trim_of_plain {t : Chars} (ht : ∀ c ∈ t, isPlain c = true) : trim t = t :=
  trim_of_ends (fun c hc => isBlank_of_isPlain (ht c (List.mem_of_mem_head? hc)))
    (fun c hc => isBlank_of_isPlain (ht c (List.mem_of_mem_getLast? hc)))

/-! #### The words of the line -/

section
variable {name t : Chars} (hname : ∀ c ∈ name, isPlain c = true) (ht : ∀ c ∈ t, isPlain c = true)

include hname

theorem firstWord_printedLine : firstWord (printedLine name t) = name := by
  rw [firstWord, printedLine, List.takeWhile_append_of_pos fun c hc => not_isBlank_of_isPlain (hname c hc)]
  split <;> exact List.append_nil name

include ht

theorem afterFirstWord_printedLine : afterFirstWord (printedLine name t) = t := by
  rw [afterFirstWord, printedLine, List.dropWhile_append_of_pos fun c hc => not_isBlank_of_isPlain (hname c hc)]
  split
  case isTrue h => rw [h]; rfl
  case isFalse => exact trim_of_plain ht

theorem eq_blank_or_isPlain_of_mem_printedLine {c : Char} (h : c ∈ printedLine name t) : c = ' ' ∨ isPlain c = true := by
  obtain h | h := List.mem_append.mp h
  · exact .inr (hname c h)
  · split at h
    · exact absurd h List.not_mem_nil
    · exact (List.mem_cons.mp h).imp_right (ht c)

theorem not_mem_printedLine {c : Char} (hblank : c ≠ ' ') (hc : isPlain c = false) : c ∉ printedLine name t := by
  intro h
  obtain h | h := eq_blank_or_isPlain_of_mem_printedLine hname ht h
  · exact hblank h
  · exact Bool.false_ne_true (hc.symm.trans h)

theorem trim_printedLine (hne : name ≠ []) : trim (printedLine name t) = printedLine name t := by
  apply trim_of_ends
  · intro c hc
    rw [printedLine, List.head?_append_of_ne_nil _ hne] at hc
    exact isBlank_of_isPlain (hname c (List.mem_of_mem_head? hc))
  · intro c hc
    rw [printedLine] at hc
    split at hc
    case isTrue =>
      rw [List.append_nil] at hc
      exact isBlank_of_isPlain (hname c (List.mem_of_mem_getLast? hc))
    case isFalse h =>
      rw [List.append_cons, List.getLast?_append_of_ne_nil _ h] at hc
      exact isBlank_of_isPlain (ht c (List.mem_of_mem_getLast? hc))

theorem cleanLine_printedLine (hne : name ≠ []) : cleanLine (printedLine name t) = printedLine name t := by
  have hcomment : (printedLine name t).takeWhile (· ≠ ';') = printedLine name t := by
    rw [List.takeWhile_eq_self_iff]
    intro c hc
    exact decide_eq_true (ne_of_mem_of_not_mem hc (not_mem_printedLine hname ht (by decide) (by decide)))
  have hupper : ∀ c ∈ printedLine name t, c.toUpper = c := by
    intro c hc
    obtain rfl | h := eq_blank_or_isPlain_of_mem_printedLine hname ht hc
    · rfl
    · exact toUpper_of_isPlain h
  rw [cleanLine, hcomment, upperOutsideStrings_of_upper hupper (not_mem_printedLine hname ht (by decide) (by decide)),
    trim_printedLine hname ht hne]

/-- The line has no label, so that it is classified as a whole. -/
theorem sourceLine_printedLine (hne : name ≠ []) (keyword : Chars) (line : Nat) (st : Pass1) :
    sourceLine keyword line (printedLine name t) st = plainLine keyword line (printedLine name t) st := by
  have hclean := cleanLine_printedLine hname ht hne
  have hquote : '"' ∉ printedLine name t := not_mem_printedLine hname ht (by decide) (by decide)
  have hlabel : ':' ∉ printedLine name t := not_mem_printedLine hname ht (by decide) (by decide)
  have hlineNe : printedLine name t ≠ [] := List.append_ne_nil_of_left_ne_nil hne _
  rw [sourceLine_of_allowed (stringsAllowed_of_no_quote (hclean.symm ▸ hquote)), hclean, classifyLine, if_neg hlineNe,
    splitFirst_of_not_mem hlabel]

end

/-! #### Pass 1 and pass 2 on the line -/

theorem originOf_of_mnemonicOf {t : Chars} {mn : Mnemonic} (h : mnemonicOf (firstWord t) = some mn) :
    originOf t = none := by
  unfold originOf
  split
  case h_1 => cases h
  case h_2 =>
    refine if_neg fun horg => ?_
    rw [horg] at h
    cases h

/-- A line whose first word is a mnemonic is an instruction line, if the byte-literal keyword is no mnemonic (R253). -/
theorem plainLine_of_mnemonicOf {keyword t : Chars} {mn : Mnemonic} (h : mnemonicOf (firstWord t) = some mn)
    (hkeyword : mnemonicOf keyword = none) (line : Nat) (st : Pass1) :
    plainLine keyword line t st = instructionLine line t st := by
  have hne {w : Chars} (hw : mnemonicOf w = none) : firstWord t ≠ w := fun heq => by
    rw [heq, hw] at h
    cases h
  have hdefine : isDefine (firstWord t) = false := by
    rw [isDefine, Bool.or_eq_false_iff, beq_eq_false_iff_ne, beq_eq_false_iff_ne]
    exact ⟨hne rfl, hne rfl⟩
  rw [plainLine, originOf_of_mnemonicOf h]
  simp only [if_neg (hne hkeyword), hdefine, Bool.false_eq_true, if_false]

theorem operandOf_of_plain {t : Chars} (ht : ∀ c ∈ t, isPlain c = true) : operandOf [] t = t :=
  List.filter_eq_self.mpr fun c hc => not_isBlank_of_isPlain (ht c hc)

/-- The record holds an opcode byte and a literal operand or none, so that pass 2 emits them (R273). -/
structure Emits (m : MetaInstruction) (op : Byte) (sl : Slot) (value : Option Nat) : Prop where
  opcode : m.opcode = some op
  slot : m.slot = some sl
  value : m.value = value
  label : m.label = none

theorem Emits.emitMeta {m : MetaInstruction} {op : Byte} {sl : Slot} {value : Option Nat} (h : Emits m op sl value)
    (labels : List (Chars × Nat)) : emitMeta labels m = .ok (op :: operandBytes sl (value.getD 0)) := by
  rw [Machine.emitMeta, h.opcode, h.slot, h.label, h.value]

theorem instructionLine_of_resolve {line : Nat} {t : Chars} {st : Pass1} {mn : Mnemonic} {info : AddressingInfo}
    {value : Option Nat} {op : Byte} (hmn : mnemonicOf (firstWord t) = some mn)
    (hresolve : resolve mn (operandOf st.consts (afterFirstWord t)) = .ok info)
    (hvalue : literalValue line st.cursor info = .ok value) (hlabel : ∀ l sel, info.value ≠ .label l sel)
    (hop : opcodeFor mn info.slot = some op) (hfit : st.cursor + Slot.length info.slot ≤ 65536) :
    ∃ m, Emits m op info.slot value ∧ instructionLine line t st =
      .ok { st with cursor := st.cursor + Slot.length info.slot, metas := m :: st.metas } := by
  obtain ⟨sl, v⟩ := info
  simp only [instructionLine, hmn, hresolve, hvalue, bind, Except.bind, Pass1.emit, Nat.not_lt.mpr hfit, if_false]
  refine ⟨_, ⟨hop, rfl, rfl, ?_⟩, rfl⟩
  cases v with
  | label l sel => exact absurd rfl (hlabel l sel)
  | _ => rfl

/-- The text of a mnemonic and an operand is assembled as the resolver reads the operand. -/
theorem assembleWith_printedLine {keyword text : String} {base : Addr} {mn : Mnemonic} {t : Chars}
    {info : AddressingInfo} {value : Option Nat} {op : Byte} (hU : mn ≠ .UND)
    (hkeyword : mnemonicOf (keyword.toList.map Char.toUpper) = none) (ht : ∀ c ∈ t, isPlain c = true)
    (htext : text.toList = printedLine (Mnemonic.name mn).toList t) (hresolve : resolve mn t = .ok info)
    (hvalue : literalValue 1 base.toNat info = .ok value) (hlabel : ∀ l sel, info.value ≠ .label l sel)
    (hop : opcodeFor mn info.slot = some op) (hfit : base.toNat + Slot.length info.slot ≤ 65536) :
    assembleWith keyword text base = .ok (op :: operandBytes info.slot (value.getD 0)) := by
  have hname := isPlain_of_mem_name (mn := mn)
  have hmn : mnemonicOf (firstWord (printedLine (Mnemonic.name mn).toList t)) = some mn := by
    rw [firstWord_printedLine hname, mnemonicOf_name hU]
  have hoperand : operandOf [] (afterFirstWord (printedLine (Mnemonic.name mn).toList t)) = t := by
    rw [afterFirstWord_printedLine hname ht, operandOf_of_plain ht]
  obtain ⟨m, hm, hline⟩ := instructionLine_of_resolve (line := 1) (st := ⟨base.toNat, [], [], []⟩) hmn
    (hoperand.symm ▸ hresolve) hvalue hlabel hop hfit
  have hsource := (sourceLine_printedLine hname ht (name_ne_nil mn) (keyword.toList.map Char.toUpper) 1 _).trans
    ((plainLine_of_mnemonicOf hmn hkeyword 1 _).trans hline)
  have hsplit := splitOn_of_not_mem (not_mem_printedLine hname ht (c := '\n') (by decide) (by decide))
  simp only [assembleWith, htext, hsplit, pass1, hsource, bind, Except.bind, List.reverse_singleton, pass2, hm.emitMeta,
    List.append_nil]

end Sys2Proof.Machine
end

section
/-! ### The resolver on printed operands -/

namespace Sys2Proof.Machine

/-- How a mode with an index register is printed after its base (R234). -/
def IndexReg.suffix : IndexReg → Chars
  | .none => []
  | .X => [',', 'X']
  | .Y => [',', 'Y']

/-! #### Supported slots -/

theorem hasSlot_of_mem_modes {mn : Mnemonic} {mode : Mode} (hU : mn ≠ .UND) (h : mode ∈ mn.modes) :
    hasSlot mn mode.slot = true := by
  obtain ⟨op, hop, -⟩ := Option.any_eq_true _ _ |>.mp (opcodeFor_table hU mode h)
  rw [hasSlot, hop, Option.isSome_some]

theorem mode_eq_of_slot_eq {m m' : Mode} (h : m.slot = m'.slot) (hne : m'.slot ≠ .SNGL) : m = m' := by
  cases m' with
  | IMP | ACC => exact absurd rfl hne
  | _ =>
    revert h
    cases m <;> decide

/-- A slot of one mode alone is supported only if the mode is. -/
theorem mem_modes_of_hasSlot {mn : Mnemonic} {mode : Mode} (h : hasSlot mn mode.slot = true) (hne : mode.slot ≠ .SNGL) :
    mode ∈ mn.modes := by
  obtain ⟨op, hop⟩ := Option.isSome_iff_exists.mp h
  obtain ⟨g, hg, rfl⟩ := Option.map_eq_some_iff.mp hop
  have hslot : g.1 = mode.slot := eq_of_beq (List.find?_some hg :)
  obtain ⟨rfl, hmode⟩ := opcodeGroup_table mn g (List.mem_of_find?_eq_some hg)
  obtain rfl := mode_eq_of_slot_eq (hmode.trans hslot) hne
  cases hentry : tableEntry g.2 with
  | none =>
    rw [tableMode_of_undefined hentry] at hne
    exact absurd rfl hne
  | some e =>
    rw [tableMode, tableMnemonic, hentry]
    exact modes_of_tableEntry hentry

theorem hasSlot_iff {mn : Mnemonic} {mode : Mode} (hU : mn ≠ .UND) (hne : mode.slot ≠ .SNGL) :
    hasSlot mn mode.slot = true ↔ mode ∈ mn.modes :=
  ⟨fun h => mem_modes_of_hasSlot h hne, hasSlot_of_mem_modes hU⟩

theorem gated_of_hasSlot {mn : Mnemonic} {info : AddressingInfo} (h : hasSlot mn info.slot = true) :
    gated mn info = some info := if_pos h

theorem gated_of_not_hasSlot {mn : Mnemonic} {info : AddressingInfo} (h : ¬ hasSlot mn info.slot = true) :
    gated mn info = none := if_neg h

/-! #### The checks -/

theorem splitIndex_append {t : Chars} (h : ',' ∉ t) (ix : IndexReg) : splitIndex (t ++ ix.suffix) = some (t, ix) := by
  cases ix with
  | none => rw [IndexReg.suffix, List.append_nil, splitIndex, splitOn_of_not_mem h]
  | X | Y =>
    rw [IndexReg.suffix, splitIndex, splitOn_append h]
    rfl

/-- A split operand that begins with a parenthesis keeps it in its base. -/
theorem exists_eq_cons_of_splitIndex {r b : Chars} {ix : IndexReg} (h : splitIndex ('(' :: r) = some (b, ix)) :
    ∃ b', b = '(' :: b' := by
  have hsplit : ∃ w ws, splitOn ',' ('(' :: r) = ('(' :: w) :: ws := by
    obtain ⟨w, ws, hr⟩ := List.exists_cons_of_ne_nil (splitOn_ne_nil ',' r)
    exact ⟨w, ws, by rw [splitOn, if_neg (by decide), hr]⟩
  obtain ⟨w, ws, hsplit⟩ := hsplit
  rw [splitIndex, hsplit] at h
  refine ⟨w, ?_⟩
  split at h <;> simp_all

section
variable {mn : Mnemonic} {ds : Chars} {n : Nat} (h : Denotes ds n)

include h

theorem Denotes.splitIndex (ix : IndexReg) : splitIndex ('$' :: (ds ++ ix.suffix)) = some ('$' :: ds, ix) :=
  splitIndex_append (List.not_mem_cons_of_ne_of_not_mem (by decide) (h.not_mem (by decide))) ix

theorem checkImmediate_of_denotes (hslot : hasSlot mn .IMM = true) (hn : n ≤ 255) :
    checkImmediate mn ('$' :: ds) = .ok ⟨.IMM, .literal n⟩ := by
  simp [checkImmediate, hslot, h.literalUpTo, hn]

theorem checkZeroPage_of_denotes (ix : IndexReg) : checkZeroPage mn ('$' :: (ds ++ ix.suffix)) =
    if n ≤ 255 then gated mn ⟨ix.zeroPageSlot, .literal n⟩ else none := by
  rw [checkZeroPage, h.splitIndex]
  by_cases hn : n ≤ 255 <;> simp [h.literalUpTo, hn]

theorem checkAbsolute_of_denotes (ix : IndexReg) (hn : n ≤ 65535) :
    checkAbsolute mn ('$' :: (ds ++ ix.suffix)) = gated mn ⟨ix.absoluteSlot, .literal n⟩ := by
  rw [checkAbsolute, h.splitIndex]
  simp only [bind, Option.bind, h.literalUpTo, hn, if_true]
  rfl

theorem checkBranch_of_denotes (hn : n ≤ 65535) : checkBranch mn ('$' :: ds) = gated mn ⟨.BRA, .literal n⟩ := by
  rw [checkBranch, h.literalUpTo, if_pos hn]
  rfl

end

theorem literalUpTo_paren (limit : Nat) (t : Chars) : literalUpTo limit ('(' :: t) = none := rfl

theorem checkZeroPage_paren (mn : Mnemonic) (r : Chars) : checkZeroPage mn ('(' :: r) = none := by
  rw [checkZeroPage]
  cases h : splitIndex ('(' :: r) with
  | none => rfl
  | some p =>
    obtain ⟨b', hb⟩ := exists_eq_cons_of_splitIndex (b := p.1) (ix := p.2) h
    simp only [bind, Option.bind, hb, literalUpTo_paren]

theorem checkAbsolute_paren (mn : Mnemonic) (r : Chars) : checkAbsolute mn ('(' :: r) = none := by
  rw [checkAbsolute]
  cases h : splitIndex ('(' :: r) with
  | none => rfl
  | some p =>
    obtain ⟨b', hb⟩ := exists_eq_cons_of_splitIndex (b := p.1) (ix := p.2) h
    simp only [bind, Option.bind, hb, literalUpTo_paren]
    rfl

theorem beforeParen_append (t : Chars) : beforeParen (t ++ [')']) = some t := by
  rw [beforeParen, List.reverse_append]
  exact congrArg some (List.reverse_reverse t)

section
variable {mn : Mnemonic} {ds : Chars} {n : Nat} (h : Denotes ds n)

include h

theorem checkIndirect_ind (hn : n ≤ 65535) :
    checkIndirect mn ('(' :: ('$' :: ds ++ [')'])) = gated mn ⟨.IND, .literal n⟩ := by
  have hcomma : ',' ∉ '$' :: ds ++ [')'] := by simpa using h.not_mem (by decide)
  simp only [checkIndirect, splitOn_of_not_mem hcomma, beforeParen_append, h.literalUpTo, hn, if_true, bind, Option.bind]

theorem checkIndirect_indx (hn : n ≤ 255) :
    checkIndirect mn ('(' :: ('$' :: ds ++ [',', 'X', ')'])) = gated mn ⟨.INDX, .literal n⟩ := by
  have hcomma : ',' ∉ '$' :: ds := by simpa using h.not_mem (by decide)
  have hsplit : splitOn ',' ('$' :: ds ++ [',', 'X', ')']) = ['$' :: ds, ['X', ')']] := splitOn_append hcomma ['X', ')']
  simp only [checkIndirect, hsplit, h.literalUpTo, hn, if_true, bind, Option.bind]

theorem checkIndirect_indy (hn : n ≤ 255) :
    checkIndirect mn ('(' :: ('$' :: ds ++ [')', ',', 'Y'])) = gated mn ⟨.INDY, .literal n⟩ := by
  have hcomma : ',' ∉ '$' :: ds ++ [')'] := by simpa using h.not_mem (by decide)
  have hsplit : splitOn ',' ('$' :: ds ++ [')', ',', 'Y']) = ['$' :: ds ++ [')'], ['Y']] :=
    List.append_assoc ('$' :: ds) [')'] [',', 'Y'] ▸ splitOn_append hcomma ['Y']
  simp only [checkIndirect, hsplit, beforeParen_append, h.literalUpTo, hn, if_true, bind, Option.bind]

end

/-! #### The resolver -/

/-- Past the first two checks the first match wins (R259). -/
theorem resolve_of_check {mn : Mnemonic} {c : Char} {t : Chars} {info : AddressingInfo} (hA : c ≠ 'A') (hhash : c ≠ '#')
    (h : (checkZeroPage mn (c :: t) <|> checkAbsolute mn (c :: t) <|> checkIndirect mn (c :: t) <|>
      checkBranch mn (c :: t)) = some info) : resolve mn (c :: t) = .ok info := by
  have hsingle : checkSingle mn (c :: t) = none := by simp [checkSingle, hA]
  unfold resolve
  rw [hsingle]
  split
  case h_1 hsome => cases hsome
  case h_2 heq => exact absurd (List.cons.inj heq).1 hhash
  case h_3 => rw [h]

theorem resolve_of_checkIndirect {mn : Mnemonic} {t : Chars} {info : AddressingInfo}
    (h : checkIndirect mn ('(' :: t) = some info) : resolve mn ('(' :: t) = .ok info := by
  apply resolve_of_check (by decide) (by decide)
  rw [checkZeroPage_paren, checkAbsolute_paren, h]
  rfl

theorem resolve_single {mn : Mnemonic} {t : Chars} (ht : t = [] ∨ t = ['A']) (h : hasSlot mn .SNGL = true) :
    resolve mn t = .ok ⟨.SNGL, .none⟩ := by
  simp [resolve, checkSingle, ht, gated, h]

theorem resolve_immediate {mn : Mnemonic} {ds : Chars} {n : Nat} (hds : Denotes ds n) (hn : n ≤ 255)
    (h : hasSlot mn .IMM = true) : resolve mn ('#' :: '$' :: ds) = .ok ⟨.IMM, .literal n⟩ := by
  simp [resolve, checkSingle, checkImmediate_of_denotes hds h hn]

/-- A value below 0x0100 takes the zero-page slot where there is one, and every other the absolute slot (R262). -/
theorem resolve_address {mn : Mnemonic} {ds : Chars} {n : Nat} (hds : Denotes ds n) (hn : n ≤ 65535) (ix : IndexReg)
    (h : hasSlot mn ix.absoluteSlot = true ∨ n ≤ 255 ∧ hasSlot mn ix.zeroPageSlot = true) :
    resolve mn ('$' :: (ds ++ ix.suffix)) = .ok
      ⟨if n ≤ 255 ∧ hasSlot mn ix.zeroPageSlot = true then ix.zeroPageSlot else ix.absoluteSlot, .literal n⟩ := by
  apply resolve_of_check (by decide) (by decide)
  rw [checkZeroPage_of_denotes hds, checkAbsolute_of_denotes hds ix hn]
  by_cases hshort : n ≤ 255 ∧ hasSlot mn ix.zeroPageSlot = true
  · rw [if_pos hshort, if_pos hshort.1, gated_of_hasSlot hshort.2]
    rfl
  · rw [if_neg hshort, gated_of_hasSlot (info := ⟨ix.absoluteSlot, _⟩) (h.resolve_right hshort)]
    by_cases hsmall : n ≤ 255
    · rw [if_pos hsmall, gated_of_not_hasSlot fun hzp => hshort ⟨hsmall, hzp⟩]
      rfl
    · rw [if_neg hsmall]
      rfl

theorem resolve_branch {mn : Mnemonic} {ds : Chars} {n : Nat} (hds : Denotes ds n) (hn : n ≤ 65535)
    (hzp : ¬ hasSlot mn .ZP = true) (habs : ¬ hasSlot mn .ABS = true) (h : hasSlot mn .BRA = true) :
    resolve mn ('$' :: ds) = .ok ⟨.BRA, .literal n⟩ := by
  have hcheckZp := checkZeroPage_of_denotes (mn := mn) hds .none
  have hcheckAbs := checkAbsolute_of_denotes (mn := mn) hds .none hn
  rw [gated_of_not_hasSlot hzp, ite_self] at hcheckZp
  rw [gated_of_not_hasSlot habs] at hcheckAbs
  rw [IndexReg.suffix, List.append_nil] at hcheckZp hcheckAbs
  apply resolve_of_check (by decide) (by decide)
  rw [hcheckZp, hcheckAbs, checkBranch_of_denotes hds hn, gated_of_hasSlot h]
  rfl

/-! #### Modes after assembling -/

/-- The zero-page mode with the same index, for the absolute modes. -/
def zeroPageMode : Mode → Mode
  | .ABS => .ZP
  | .ABSX => .ZPX
  | .ABSY => .ZPY
  | m => m

/-- The mode of an operand in the short form. -/
def shortMode (mode : Mode) (w : Addr) : Mode := if hi w = 0 then zeroPageMode mode else mode

/-- The mode in which the assembler encodes the printed form of an operand: short where the mnemonic has it (R262). -/
def assembledMode (mn : Mnemonic) (mode : Mode) (w : Addr) : Mode :=
  if shortMode mode w ∈ mn.modes then shortMode mode w else mode

/-- The value that the printed form of an operand gives the resolver. -/
def printedValue (mode : Mode) (address : Addr) (b1 : Byte) (w : Addr) : OperandValue :=
  match mode with
  | .IMP | .ACC => .none
  | .IMM | .ZP | .ZPX | .ZPY | .INDX | .INDY => .literal b1.toNat
  | .ABS | .ABSX | .ABSY | .IND => .literal w.toNat
  | .REL => .literal (relativeTarget address b1).toNat

/-- The value that pass 1 keeps of the printed form: for a branch the offset (R265). -/
def keptValue (mode : Mode) (b1 : Byte) (w : Addr) : Option Nat :=
  match mode with
  | .IMP | .ACC => none
  | .IMM | .ZP | .ZPX | .ZPY | .INDX | .INDY | .REL => some b1.toNat
  | .ABS | .ABSX | .ABSY | .IND => some w.toNat

theorem assembledMode_eq_or (mn : Mnemonic) (mode : Mode) (w : Addr) :
    assembledMode mn mode w = mode ∨ assembledMode mn mode w = zeroPageMode mode := by
  rw [assembledMode, shortMode]
  split_ifs <;> simp

theorem assembledMode_of_zeroPageMode_eq {mode : Mode} (h : zeroPageMode mode = mode) (mn : Mnemonic) (w : Addr) :
    assembledMode mn mode w = mode := by
  rw [assembledMode, shortMode, h, ite_self, ite_self]

theorem assembledMode_mem_modes {mn : Mnemonic} {mode : Mode} (h : mode ∈ mn.modes) (w : Addr) :
    assembledMode mn mode w ∈ mn.modes := by
  rw [assembledMode]
  split
  case isTrue hshort => exact hshort
  case isFalse => exact h

theorem hi_eq_zero_iff (w : Addr) : hi w = 0 ↔ w.toNat ≤ 255 := by
  rw [← BitVec.toNat_inj, toNat_hi]
  change w.toNat / 256 = 0 ↔ w.toNat ≤ 255
  omega

/-- The slot of an absolute mode after assembling, in the resolver's terms. -/
theorem slot_assembledMode {mn : Mnemonic} (hU : mn ≠ .UND) {mode : Mode} {ix : IndexReg} (w : Addr)
    (habs : mode.slot = ix.absoluteSlot) (hzp : (zeroPageMode mode).slot = ix.zeroPageSlot) (h : mode ∈ mn.modes) :
    (assembledMode mn mode w).slot =
      if w.toNat ≤ 255 ∧ hasSlot mn ix.zeroPageSlot = true then ix.zeroPageSlot else ix.absoluteSlot := by
  have hne : ix.zeroPageSlot ≠ .SNGL := by cases ix <;> decide
  rw [← hzp] at hne ⊢
  simp only [hasSlot_iff hU hne, ← hi_eq_zero_iff, ← habs, assembledMode, shortMode]
  by_cases hhi : hi w = 0
  · simp only [hhi, if_true, true_and]
    exact apply_ite Mode.slot _ _ _
  · simp only [hhi, if_false, false_and, h, if_true]

/-- The resolver reads the printed form of an operand as its mode and its value, or as the short mode. -/
theorem resolve_operandText {mn : Mnemonic} {mode : Mode} (hU : mn ≠ .UND) (h : mode ∈ mn.modes) (address : Addr)
    (b1 : Byte) (w : Addr) : resolve mn (operandText mode address b1 w) =
      .ok ⟨(assembledMode mn mode w).slot, printedValue mode address b1 w⟩ := by
  have hslot := hasSlot_of_mem_modes hU h
  have hb := denotes_hexByte b1
  have hw := denotes_hexWord w
  have hb255 : b1.toNat ≤ 255 := Nat.le_of_lt_succ b1.isLt
  have hw65535 (w : Addr) : w.toNat ≤ 65535 := Nat.le_of_lt_succ w.isLt
  have hbyte (ix : IndexReg) (hzp : hasSlot mn ix.zeroPageSlot = true) :=
    (resolve_address hb (by omega) ix (.inr ⟨hb255, hzp⟩)).trans (by rw [if_pos ⟨hb255, hzp⟩])
  have hword (ix : IndexReg) (habs : hasSlot mn ix.absoluteSlot = true) :=
    resolve_address hw (hw65535 w) ix (.inl habs)
  by_cases hkeep : zeroPageMode mode = mode
  · rw [assembledMode_of_zeroPageMode_eq hkeep]
    cases mode with
    | IMP => exact resolve_single (.inl rfl) hslot
    | ACC => exact resolve_single (.inr rfl) hslot
    | IMM => exact resolve_immediate hb hb255 hslot
    | ZP => exact hbyte .none hslot
    | ZPX => exact hbyte .X hslot
    | ZPY => exact hbyte .Y hslot
    | IND => exact resolve_of_checkIndirect ((checkIndirect_ind hw (hw65535 w)).trans (gated_of_hasSlot hslot))
    | INDX => exact resolve_of_checkIndirect ((checkIndirect_indx hb hb255).trans (gated_of_hasSlot hslot))
    | INDY => exact resolve_of_checkIndirect ((checkIndirect_indy hb hb255).trans (gated_of_hasSlot hslot))
    | REL =>
      have hmodes : mn.modes = [.REL] := by revert h; cases mn <;> decide
      have hno (m : Mode) (hm : m ≠ .REL) (hne : m.slot ≠ .SNGL) : ¬ hasSlot mn m.slot = true := fun hslot =>
        hm (by simpa [hmodes] using mem_modes_of_hasSlot hslot hne)
      exact resolve_branch (denotes_hexWord _) (hw65535 _) (hno .ZP (by decide) (by decide))
        (hno .ABS (by decide) (by decide)) hslot
    | ABS | ABSX | ABSY => cases hkeep
  · cases mode with
    | ABS => rw [slot_assembledMode (ix := .none) hU w rfl rfl h]; exact hword .none hslot
    | ABSX => rw [slot_assembledMode (ix := .X) hU w rfl rfl h]; exact hword .X hslot
    | ABSY => rw [slot_assembledMode (ix := .Y) hU w rfl rfl h]; exact hword .Y hslot
    | _ => exact absurd rfl hkeep

end Sys2Proof.Machine
end

section
/-! ### Assembling what was disassembled -/

namespace Sys2Proof.Machine

/-! #### The short form of an instruction -/

theorem shortForm_spec {m : MemOperand} {b1 b2 : Byte} (h : m.bytes = [b1, b2].take m.mode.operandLength) :
    (shortForm m).mode = shortMode m.mode (word b2 b1) ∧
      (shortForm m).bytes = [b1, b2].take (shortForm m).mode.operandLength := by
  cases m with
  | zp | zpx | zpy | indx | indy => exact ⟨(ite_self _).symm, h⟩
  | abs a | absx a | absy a =>
    obtain ⟨rfl, rfl⟩ : lo a = b1 ∧ hi a = b2 := by simpa [MemOperand.bytes, MemOperand.mode, Mode.operandLength] using h
    rw [word_hi_lo, shortMode, shortForm]
    split_ifs <;> exact ⟨rfl, rfl⟩

theorem shortRead_spec {o : ReadOperand} {b1 b2 : Byte} (h : o.bytes = [b1, b2].take o.mode.operandLength) :
    (shortRead o).mode = shortMode o.mode (word b2 b1) ∧
      (shortRead o).bytes = [b1, b2].take (shortRead o).mode.operandLength := by
  cases o with
  | imm => exact ⟨(ite_self _).symm, h⟩
  | mem => exact shortForm_spec h

theorem shortShift_spec {o : ShiftOperand} {b1 b2 : Byte} (h : o.bytes = [b1, b2].take o.mode.operandLength) :
    (shortShift o).mode = shortMode o.mode (word b2 b1) ∧
      (shortShift o).bytes = [b1, b2].take (shortShift o).mode.operandLength := by
  cases o with
  | acc => exact ⟨(ite_self _).symm, h⟩
  | mem => exact shortForm_spec h

theorem mnemonic_shortInstr (i : Instr) : (shortInstr i).mnemonic = i.mnemonic := by
  cases i <;> rfl

theorem abs_eq_shortMode_or {mn : Mnemonic} (h : mn = .JMP ∨ mn = .JSR) (w : Addr) :
    .ABS = shortMode .ABS w ∨ shortMode .ABS w ∉ mn.modes := by
  rw [shortMode]
  split_ifs
  · right
    obtain rfl | rfl := h <;> decide
  · exact .inl rfl

/-- Only JMP and JSR keep an absolute operand below 0x0100, and they have no zero-page mode. -/
theorem shortInstr_spec {i : Instr} {b1 b2 : Byte} (h : i.hasOperandBytes b1 b2) :
    (shortInstr i).hasOperandBytes b1 b2 ∧ ((shortInstr i).mode = shortMode i.mode (word b2 b1) ∨
      shortInstr i = i ∧ shortMode i.mode (word b2 b1) ∉ i.mnemonic.modes) := by
  cases i with
  | lda | ldx | ldy | adc | sbc | cmp | cpx | cpy | and | ora | eor =>
    exact ⟨(shortRead_spec h).2, .inl (shortRead_spec h).1⟩
  | sta | stx | sty | inc | dec | bit => exact ⟨(shortForm_spec h).2, .inl (shortForm_spec h).1⟩
  | asl | lsr | rol | ror => exact ⟨(shortShift_spec h).2, .inl (shortShift_spec h).1⟩
  | jmp o =>
    cases o with
    | ind => exact ⟨h, .inl (ite_self _).symm⟩
    | abs => exact ⟨h, (abs_eq_shortMode_or (.inl rfl) _).imp_right (.intro rfl)⟩
  | jsr => exact ⟨h, (abs_eq_shortMode_or (.inr rfl) _).imp_right (.intro rfl)⟩
  | _ => exact ⟨h, .inl (ite_self _).symm⟩

theorem reassembled_spec {i : Instr} {b1 b2 : Byte} (hU : i.mnemonic ≠ .UND) (h : i.hasOperandBytes b1 b2) :
    (reassembled i).mnemonic = i.mnemonic ∧
    (reassembled i).mode = assembledMode i.mnemonic i.mode (word b2 b1) ∧ (reassembled i).hasOperandBytes b1 b2 := by
  have hmn := mnemonic_shortInstr i
  obtain ⟨hbytes, hmode | ⟨hself, hno⟩⟩ := shortInstr_spec h
  · have hwf : (shortInstr i).wellFormed = true ↔ shortMode i.mode (word b2 b1) ∈ i.mnemonic.modes := by
      rw [Instr.wellFormed_of_ne_und (hmn.trans_ne hU), hmn, hmode]
    rw [reassembled, assembledMode]
    by_cases hshort : shortMode i.mode (word b2 b1) ∈ i.mnemonic.modes
    · rw [if_pos (hwf.mpr hshort), if_pos hshort]
      exact ⟨hmn, hmode, hbytes⟩
    · rw [if_neg (mt hwf.mp hshort), if_neg hshort]
      exact ⟨rfl, rfl, h⟩
  · rw [reassembled, hself, ite_self, assembledMode, if_neg hno]
    exact ⟨rfl, rfl, h⟩

theorem encode_of_operandBytes {i : Instr} {b1 b2 : Byte} (hU : i.mnemonic ≠ .UND) (hmode : i.mode ∈ i.mnemonic.modes)
    (h : i.hasOperandBytes b1 b2) : ∃ op, opcodeFor i.mnemonic i.mode.slot = some op ∧
      encode i = some (op :: [b1, b2].take i.mode.operandLength) := by
  have hwf := (Instr.wellFormed_of_ne_und hU).mpr hmode
  obtain ⟨op, hop, -⟩ := Instr.exists_opcode? hwf
  exact ⟨op, (Instr.opcode?_of_ne_und hU hwf).symm.trans hop, h ▸ encode_of_opcode? hop⟩

/-! #### The bytes of the assembled operand -/

theorem length_slot (m : Mode) : Slot.length m.slot = m.length := by
  cases m <;> rfl

theorem length_assembledMode_le (mn : Mnemonic) (mode : Mode) (w : Addr) :
    (assembledMode mn mode w).length ≤ mode.length := by
  obtain h | h := assembledMode_eq_or mn mode w <;> rw [h]
  cases mode <;> decide

/-- A target that was not masked is found again (R265). -/
theorem branchOffset_relativeTarget {address : Addr} {off : Byte}
    (h : ((relativeTarget address off).toNat : Int) = address.toNat + 2 + off.toInt) :
    branchOffset address.toNat (relativeTarget address off).toNat = some off := by
  have hoff : ((relativeTarget address off).toNat : Int) - (address.toNat + 2) = off.toInt := by omega
  have hle := BitVec.le_toInt off
  have hlt := BitVec.toInt_lt (x := off)
  rw [branchOffset]
  simp only [hoff]
  rw [if_pos (by omega), BitVec.ofInt_toInt]

theorem literalValue_printedValue (mn : Mnemonic) {mode : Mode} {address : Addr} {b1 : Byte} {w : Addr}
    (hrel : mode = .REL → ((relativeTarget address b1).toNat : Int) = address.toNat + 2 + b1.toInt) (line : Nat) :
    literalValue line address.toNat ⟨(assembledMode mn mode w).slot, printedValue mode address b1 w⟩ =
      .ok (keptValue mode b1 w) := by
  cases mode with
  | REL =>
    simp only [assembledMode_of_zeroPageMode_eq (mode := .REL) rfl, printedValue, literalValue, Mode.slot,
      branchOffset_relativeTarget (hrel rfl), keptValue]
  | _ => obtain h | h := assembledMode_eq_or mn _ w <;> rw [h] <;> rfl

theorem printedValue_ne_label (mode : Mode) (address : Addr) (b1 : Byte) (w : Addr) (l : Chars) (sel : Option Selector) :
    printedValue mode address b1 w ≠ .label l sel := by
  cases mode <;> nofun

theorem operandBytes_keptValue (mn : Mnemonic) (mode : Mode) (b1 b2 : Byte) :
    operandBytes (assembledMode mn mode (word b2 b1)).slot ((keptValue mode b1 (word b2 b1)).getD 0) =
      [b1, b2].take (assembledMode mn mode (word b2 b1)).operandLength := by
  have hb : BitVec.ofNat 8 b1.toNat = b1 := by simp
  have hlow : BitVec.ofNat 8 (word b2 b1).toNat = b1 := by
    apply BitVec.eq_of_toNat_eq
    rw [BitVec.toNat_ofNat, toNat_word]
    omega
  have hw : BitVec.ofNat 16 (word b2 b1).toNat = word b2 b1 := by simp
  obtain h | h := assembledMode_eq_or mn mode (word b2 b1) <;> rw [h]
  all_goals
    cases mode <;> simp [operandBytes, keptValue, Slot.length, Mode.slot, Mode.operandLength, zeroPageMode, hlow, hw]

/-! #### The printed line -/

theorem isPlain_of_mem_hexDigits : ∀ c ∈ hexDigits, isPlain c = true := List.all_eq_true.mp (by decide)

theorem all_isPlain_hexByte (b : Byte) : (hexByte b).all isPlain = true :=
  List.all_eq_true.mpr fun c hc => isPlain_of_mem_hexDigits c (mem_hexDigits_of_mem_hexByte hc)

theorem all_isPlain_hexWord (w : Addr) : (hexWord w).all isPlain = true := by
  rw [hexWord, List.all_append, all_isPlain_hexByte, all_isPlain_hexByte, Bool.and_self]

theorem isPlain_of_mem_operandText (mode : Mode) (address : Addr) (b1 : Byte) (w : Addr) :
    ∀ c ∈ operandText mode address b1 w, isPlain c = true := by
  rw [← List.all_eq_true]
  cases mode <;> simp only [operandText, List.all_append, all_isPlain_hexByte, all_isPlain_hexWord] <;> decide

theorem mnemonicText_of_tableMnemonic {op : Byte} {mn : Mnemonic} (h : tableMnemonic op = mn) (hU : mn ≠ .UND)
    (placeholder : String) : mnemonicText placeholder op = (Mnemonic.name mn).toList := by
  subst h
  unfold mnemonicText
  split
  case h_1 hund => exact absurd hund hU
  case h_2 => rfl

theorem instructionText_eq_printedLine (placeholder : String) (op : Byte) (address : Addr) (b1 : Byte) (w : Addr) :
    instructionText placeholder op address b1 w =
      printedLine (mnemonicText placeholder op) (operandText (tableMode op) address b1 w) := by
  rw [instructionText, printedLine]
  cases operandText (tableMode op) address b1 w with
  | nil => exact (List.append_nil _).symm
  | cons c cs => rfl

theorem toList_text_decodeOne {op : Byte} {mn : Mnemonic} (h : tableMnemonic op = mn) (hU : mn ≠ .UND)
    (placeholder : String) (rest : List Byte) (address : Addr) :
    (decodeOne placeholder (op :: rest) 0 address).text.toList = printedLine (Mnemonic.name mn).toList
      (operandText (tableMode op) address (rest.getD 0 0) (word (rest.getD 1 0) (rest.getD 0 0))) := by
  rw [← mnemonicText_of_tableMnemonic h hU placeholder, ← instructionText_eq_printedLine, decodeOne, String.toList_ofList,
    BitVec.add_zero]
  rfl

/-- The printed form of an operand is assembled as its bytes, of which the short form drops the high one. -/
theorem assembleWith_operandText {keyword text : String} {mn : Mnemonic} {mode : Mode} {address : Addr} {b1 b2 op : Byte}
    (hkeyword : mnemonicOf (keyword.toList.map Char.toUpper) = none) (hU : mn ≠ .UND) (hmode : mode ∈ mn.modes)
    (htext : text.toList = printedLine (Mnemonic.name mn).toList (operandText mode address b1 (word b2 b1)))
    (hrel : mode = .REL → ((relativeTarget address b1).toNat : Int) = address.toNat + 2 + b1.toInt)
    (hop : opcodeFor mn (assembledMode mn mode (word b2 b1)).slot = some op)
    (hfit : address.toNat + mode.length ≤ 65536) :
    assembleWith keyword text address =
      .ok (op :: [b1, b2].take (assembledMode mn mode (word b2 b1)).operandLength) := by
  have hlength := length_assembledMode_le mn mode (word b2 b1)
  rw [← length_slot] at hlength
  rw [← operandBytes_keptValue]
  exact assembleWith_printedLine hU hkeyword (isPlain_of_mem_operandText _ _ _ _) htext (resolve_operandText hU hmode ..)
    (literalValue_printedValue mn hrel 1) (printedValue_ne_label _ _ _ _) hop
    ((Nat.add_le_add_left hlength _).trans hfit)

/-- Settles O59: the printed operand is assembled in the mode of `reassembled`, whose operand bytes are the same. -/
theorem assembleOfDisassembly : Obligations.AssembleOfDisassembly := by
  intro keyword placeholder i address bs hkeyword hund hencode hfit hrel
  obtain ⟨op, hop, rfl⟩ := exists_opcode?_of_encode hencode
  obtain ⟨htableMn, htableMode⟩ := Instr.table_of_opcode? hop
  have hU : i.mnemonic ≠ .UND := i.eq_und_or.resolve_left fun ⟨op, h⟩ => hund op h
  have hmode := (Instr.wellFormed_of_ne_und hU).mp (Instr.wellFormed_of_opcode? hop)
  have hb : i.hasOperandBytes _ _ := Instr.hasOperandBytes_of_getD (fun _ => rfl) (fun _ => rfl)
  obtain ⟨hmn', hmode', hb'⟩ := reassembled_spec hU hb
  obtain ⟨op', hop', hencode'⟩ := encode_of_operandBytes (hmn'.trans_ne hU)
    (hmode' ▸ hmn' ▸ assembledMode_mem_modes hmode _) hb'
  rw [hmn', hmode'] at hop'
  rw [hmode'] at hencode'
  have htext := toList_text_decodeOne htableMn hU placeholder i.operandBytes address
  rw [htableMode] at htext
  rw [List.length_cons, i.length_operandBytes] at hfit
  exact ⟨_, hencode', assembleWith_operandText hkeyword hU hmode htext hrel hop' hfit⟩

end Sys2Proof.Machine
end

section
/-! ### The slots the resolver selects -/

namespace Sys2Proof.Machine

/-- What a check matches, if it matches, stands in a slot that the mnemonic has (R259). -/
def Supported (mn : Mnemonic) (found : Option AddressingInfo) : Prop :=
  ∀ info, found = some info → hasSlot mn info.slot = true

/-! #### How a check is put together -/

section
variable {mn : Mnemonic}

theorem supported_none : Supported mn none := fun _ h => nomatch h

theorem supported_gated (info : AddressingInfo) : Supported mn (gated mn info) := by
  intro info' h
  obtain ⟨hslot, hinfo⟩ := Option.ite_none_right_eq_some.mp h
  exact Option.some.inj hinfo ▸ hslot

theorem supported_bind {α : Type} {o : Option α} {f : α → Option AddressingInfo} (hf : ∀ a, Supported mn (f a)) :
    Supported mn (o >>= f) := by
  cases o with
  | none => exact supported_none
  | some a => exact hf a

theorem supported_ite {c : Prop} [Decidable c] {o o' : Option AddressingInfo} (h : Supported mn o)
    (h' : Supported mn o') : Supported mn (if c then o else o') := by
  split
  · exact h
  · exact h'

theorem supported_orElse {o o' : Option AddressingInfo} (h : Supported mn o) (h' : Supported mn o') :
    Supported mn (o <|> o') := by
  cases o with
  | none => exact h'
  | some info => exact h

/-! #### The checks -/

theorem supported_checkSingle (t : Chars) : Supported mn (checkSingle mn t) :=
  supported_ite (supported_gated _) supported_none

theorem supported_checkZeroPage (t : Chars) : Supported mn (checkZeroPage mn t) :=
  supported_bind fun _ => supported_bind fun _ => supported_gated _

theorem supported_checkAbsolute (t : Chars) : Supported mn (checkAbsolute mn t) :=
  supported_bind fun _ => supported_ite (supported_gated _) (supported_bind fun _ => supported_gated _)

theorem supported_checkIndirect (t : Chars) : Supported mn (checkIndirect mn t) := by
  unfold checkIndirect
  split
  case h_1 =>
    split
    case h_1 => exact supported_bind fun _ => supported_bind fun _ => supported_gated _
    case h_2 => exact supported_bind fun _ => supported_gated _
    case h_3 => exact supported_bind fun _ => supported_bind fun _ => supported_gated _
    case h_4 => exact supported_none
  case h_2 => exact supported_none

theorem supported_checkBranch (t : Chars) : Supported mn (checkBranch mn t) :=
  supported_ite (supported_gated _) (supported_bind fun _ => supported_gated _)

/-- The immediate check is not `gated`: it asks for the slot first, and every answer it accepts is in it (R261). -/
theorem slot_of_checkImmediate {t : Chars} {info : AddressingInfo} (h : checkImmediate mn t = .ok info) :
    info.slot = .IMM ∧ hasSlot mn .IMM = true := by
  by_cases hslot : hasSlot mn .IMM = true
  · refine ⟨?_, hslot⟩
    simp only [checkImmediate, hslot, Bool.not_true, Bool.false_eq_true, if_false] at h
    split at h
    case h_1 | h_2 | h_3 =>
      split at h
      · exact Except.ok.inj h ▸ rfl
      · cases h
  · simp [checkImmediate, hslot] at h

/-! #### The resolver -/

/-- The four checks that `resolve` tries past the first two. -/
theorem supported_checks (t : Chars) :
    Supported mn (checkZeroPage mn t <|> checkAbsolute mn t <|> checkIndirect mn t <|> checkBranch mn t) :=
  supported_orElse (supported_checkZeroPage t) (supported_orElse (supported_checkAbsolute t)
    (supported_orElse (supported_checkIndirect t) (supported_checkBranch t)))

theorem resolve_hash (r : Chars) : resolve mn ('#' :: r) = checkImmediate mn r := by
  simp [resolve, checkSingle]

theorem hasSlot_of_resolve {t : Chars} {info : AddressingInfo} (h : resolve mn t = .ok info) :
    hasSlot mn info.slot = true := by
  unfold resolve at h
  split at h
  case h_1 hsingle => exact Except.ok.inj h ▸ supported_checkSingle _ _ hsingle
  case h_2 =>
    obtain ⟨hinfo, hslot⟩ := slot_of_checkImmediate h
    exact hinfo ▸ hslot
  case h_3 =>
    split at h
    case h_1 hfound =>
      exact Except.ok.inj h ▸ supported_checks _ _ hfound
    case h_2 => cases h

end

/-- Settles O58: the slot by `Supported`, kept from each check to the resolver; after `#` only check 2 is left. -/
theorem resolverSelectsOnlySupportedSlots : Obligations.ResolverSelectsOnlySupportedSlots :=
  ⟨fun _ _ _ h => hasSlot_of_resolve h, fun _ t _ h => (slot_of_checkImmediate ((resolve_hash t).symm.trans h)).1⟩

end Sys2Proof.Machine
end

section
/-! ### Branch offsets, and the example of the spec -/

namespace Sys2Proof.Machine

/-- A difference that a byte can hold is the same after it was taken as a byte and sign-extended (R277). -/
theorem sext16_u8 {d : Int} (hlo : -128 ≤ d) (hhi : d ≤ 127) : sext16 (u8 d) = u16 d := by
  rw [sext16, u8, u16, BitVec.signExtend, BitVec.toInt_ofInt, Int.bmod_eq_of_le (by omega) (by omega)]

theorem u16_add_sext16_u8_sub {a b : Int} (hlo : -128 ≤ b - a) (hhi : b - a ≤ 127) :
    u16 a + sext16 (u8 (b - a)) = u16 b := by
  calc u16 a + sext16 (u8 (b - a))
      _ = u16 a + u16 (b - a) := by rw [sext16_u8 hlo hhi]
      _ = u16 (a + (b - a)) := (BitVec.ofInt_add a (b - a)).symm
      _ = u16 b := by rw [add_sub_cancel]

theorem branchOffset_eq_some_iff {a target : Nat} {b : Byte} : branchOffset a target = some b ↔
    (-128 ≤ (target : Int) - (a + 2) ∧ (target : Int) - (a + 2) ≤ 127) ∧ u8 ((target : Int) - (a + 2)) = b :=
  Option.ite_none_right_eq_some.trans (and_congr_right fun _ => Option.some_inj)

theorem branchOffset_eq_none_iff {a target : Nat} : branchOffset a target = none ↔
    ¬ (-128 ≤ (target : Int) - (a + 2) ∧ (target : Int) - (a + 2) ≤ 127) := by
  simp [branchOffset]

/-- Settles O57: the assembler's offset is the case of R277 whose instruction end is `a + 2`. -/
theorem branchOffsetDecodesBack : Obligations.BranchOffsetDecodesBack := by
  refine ⟨fun _ _ => branchOffset_eq_none_iff, fun a target b h => ?_, fun _ _ => u16_add_sext16_u8_sub⟩
  obtain ⟨⟨hlo, hhi⟩, rfl⟩ := branchOffset_eq_some_iff.mp h
  rw [← BitVec.ofInt_natCast, ← BitVec.ofInt_natCast]
  exact u16_add_sext16_u8_sub (a := (a + 2 : Nat)) hlo hhi

/-- Settles O60: both passes are run on the text (R278). -/
theorem assemblerExample : Obligations.AssemblerExample := by
  unfold Obligations.AssemblerExample
  decide

end Sys2Proof.Machine
end

section
/-! ### The return from the break, after the break -/

namespace Sys2Proof.Machine

/-- Settles O41: by the rules of BRK and RTI, the three bytes pulled lying where they were pushed; the pushed status
holds every flag but bits 4 and 5, which neither instruction writes. -/
theorem returnUndoesTheBreak : Obligations.ReturnUndoesTheBreak := by
  intro s t u pc ht hu
  obtain ⟨-, hbrk⟩ := breakTakesTheTrap
  obtain ⟨-, hrti⟩ := returnFromInterruptRestores
  obtain ⟨hhigh, hlow, hstatus, htsp, -, -, -, -, -, htregs, htflags, -, -⟩ := of_completes (hbrk s) ht
  obtain ⟨hupulled, hupc, husp, -, -, huregs, huflags, -, -⟩ := of_completes (hrti (t.setPC pc)) hu
  have hone : t.sp + 1 = s.sp - 2 := by bv_omega
  have htwo : t.sp + 2 = s.sp - 1 := by bv_omega
  have hthree : t.sp + 3 = s.sp := by bv_omega
  refine ⟨?_, status_ext fun f => ?_, fun r hP _ => ?_⟩
  · rw [hupc, State.sp_setPC, State.read_setPC, State.read_setPC, hthree, htwo, hhigh, hlow, word_hi_lo]
  · by_cases hkept : f = .B ∨ f = .U
    · have hwritten : f ∉ [Flag.N, .V, .D, .I, .Z, .C] := by obtain rfl | rfl := hkept <;> decide
      have hI : f ∉ [Flag.I] := by obtain rfl | rfl := hkept <;> decide
      exact (huflags f hwritten).trans (htflags f hI)
    · obtain ⟨hB, hU⟩ := not_or.mp hkept
      calc getFlag u.p f
          _ = getFlag (t.read (stackAddr (s.sp - 2))) f := by
            rw [← hone]
            exact hupulled f hB hU
          _ = (f == .B || f == .U || s.flag f) := hstatus f
          _ = s.flag f := by simp [hB, hU]
  · by_cases hr : r = .SP
    · subst hr
      exact husp.trans hthree
    · have hne : r ∉ [Reg.SP] := by simpa using hr
      exact (huregs r hP hne).trans ((t.reg_setPC pc r).trans (htregs r hP hne))

end Sys2Proof.Machine
end

section
/-! ### Power-on -/

namespace Sys2Proof.Machine

/-- Settles O18: the record of the reset with another memory. -/
theorem powerOnIsResetButForMemory : Obligations.PowerOnIsResetButForMemory :=
  fun _ => ⟨rfl, rfl, rfl, rfl, rfl, rfl, rfl, rfl, rfl, rfl⟩

end Sys2Proof.Machine
end

section
/-! ### The batch loop of a run -/

namespace Sys2Proof.Machine

/-! #### A step as the run sees it -/

theorem exists_step_eq_next (s : State) : ∃ t, step s = .next t := by
  obtain ⟨t, ht, -⟩ := stepFollowsTheLoopBody s
  exact ⟨t, ht⟩

/-- The state with another run control (R34). -/
def State.withRunControl (s : State) (b h : Bool) (r : Option RunProgress) : State :=
  { s with running := b, haltRequested := h, run := r }

/-- The state with the halt flag set or cleared. -/
def State.withHalt (s : State) (h : Bool) : State := { s with haltRequested := h }

/-- A step carries run control over, whatever it is (R34). -/
theorem step_withRunControl {s t : State} (ht : step s = .next t) (b h : Bool) (r : Option RunProgress) :
    step (s.withRunControl b h r) = .next (t.withRunControl b h r) := by
  have hstep := runControlAndCounterAreInvisible s t s.cyc b h r s.result ht
  rwa [← exec_cyc ht] at hstep

theorem step_withHalt {s t : State} (ht : step s = .next t) (h : Bool) : step (s.withHalt h) = .next (t.withHalt h) := by
  obtain ⟨-, -, -, hrunning, -, hrun⟩ := exec_frame ht
  calc step (s.withHalt h)
      _ = .next (t.withRunControl s.running h s.run) := step_withRunControl ht s.running h s.run
      _ = .next (t.withHalt h) := by
        rw [← hrunning, ← hrun]
        rfl

/-! #### The transitions, by the phase of the loop (R298) -/

section

variable {q : Nat} {s t : State} {r : RunProgress}

theorem runStart_of_not_running (b : Bool) (h : s.running = false) :
    runStart b s = .ok { s with running := true, run := some ⟨b, 0, .top⟩ } := by
  rw [runStart, h]
  rfl

theorem runTickWith_of_none (hr : s.run = none) : runTickWith q s = (s, []) := by
  rw [runTickWith, hr]

theorem runTickWith_of_top (hr : s.run = some r) (hphase : r.phase = .top) : runTickWith q s = runTop r s := by
  simp only [runTickWith, hr, hphase]

theorem runTickWith_of_boundary (hr : s.run = some r) (hphase : r.phase = .boundary) :
    runTickWith q s = (s.setRun { r with phase := .top }, []) := by
  simp only [runTickWith, hr, hphase]

theorem runTickWith_of_lt (hr : s.run = some r) (hphase : r.phase = .batch) (hused : r.used < q)
    (ht : step s = .next t) : runTickWith q s = runAfterStep r t := by
  simp only [runTickWith, hr, hphase, runInBatch, if_pos hused, ht]

theorem runTickWith_of_not_lt (hr : s.run = some r) (hphase : r.phase = .batch) (hused : ¬ r.used < q) :
    runTickWith q s = (s.setRun { r with phase := .boundary }, [.batch]) := by
  simp only [runTickWith, hr, hphase, runInBatch, if_neg hused]

end

/-- Settles O51: the transitions by the phase of the loop. -/
theorem runFollowsTheBatchLoop : Obligations.RunFollowsTheBatchLoop := by
  refine ⟨fun b s hrunning => ⟨if_pos hrunning, if_pos hrunning⟩, fun b s hrunning => ?_,
    fun q used b s hr => runTickWith_of_top hr rfl, fun q used b s hr hused => ?_,
    fun q used b s hr hused => runTickWith_of_not_lt hr rfl hused, fun q used b s hr => runTickWith_of_boundary hr rfl⟩
  · obtain ⟨t, ht⟩ := exists_step_eq_next s
    refine ⟨runStart_of_not_running b hrunning, t, ht, ?_⟩
    rw [hostStep, hrunning, ht]
    rfl
  · obtain ⟨t, ht⟩ := exists_step_eq_next s
    exact ⟨t, ht, runTickWith_of_lt hr rfl hused ht⟩

/-! #### Halt requests (R299) -/

theorem runAfterStep_withHalt (r : RunProgress) (t : State) (h : Bool) :
    runAfterStep r (t.withHalt h) = ((runAfterStep r t).1.withHalt h, (runAfterStep r t).2) := by
  have hresult : (t.withHalt h).result = t.result := rfl
  rw [runAfterStep, runAfterStep, hresult]
  split <;> rfl

/-- Off the top of a batch no transition examines the halt flag, and each carries it over. -/
theorem runTickWith_withHalt (q : Nat) (s : State) (h : Bool) (htop : ∀ r, s.run = some r → r.phase ≠ .top) :
    runTickWith q (s.withHalt h) = ((runTickWith q s).1.withHalt h, (runTickWith q s).2) := by
  have hsame : (s.withHalt h).run = s.run := rfl
  cases hr : s.run with
  | none => rw [runTickWith_of_none hr, runTickWith_of_none (hsame.trans hr)]
  | some r =>
    have hr' : (s.withHalt h).run = some r := hsame.trans hr
    cases hphase : r.phase with
    | top => exact absurd hphase (htop r hr)
    | boundary =>
      rw [runTickWith_of_boundary hr hphase, runTickWith_of_boundary hr' hphase]
      rfl
    | batch =>
      by_cases hused : r.used < q
      · obtain ⟨t, ht⟩ := exists_step_eq_next s
        rw [runTickWith_of_lt hr hphase hused ht, runTickWith_of_lt hr' hphase hused (step_withHalt ht h),
          runAfterStep_withHalt]
      · rw [runTickWith_of_not_lt hr hphase hused, runTickWith_of_not_lt hr' hphase hused]
        rfl

theorem runTop_of_haltRequested {s : State} (r : RunProgress) (h : s.haltRequested = true) :
    runTop r s = ({ s with haltRequested := false, running := false, run := none }, [.stop .userHalt]) :=
  if_pos h

/-- Settles O52: `runTickWith_withHalt` off the top, and `runTop` at the top, where a run starts. -/
theorem haltWaitsForTheTopOfABatch : Obligations.HaltWaitsForTheTopOfABatch := by
  refine ⟨fun _ => rfl, runTickWith_withHalt, fun q used b s hr hhalt => ?_, fun b s t q hrunning hstart => ?_⟩
  · rw [runTickWith_of_top hr rfl, runTop_of_haltRequested _ hhalt]
  · have hhalt : (halt s).running = false := hrunning
    rw [runStart_of_not_running b hhalt] at hstart
    cases hstart
    rw [runTickWith_of_top rfl rfl, runTop_of_haltRequested _ rfl]
    exact ⟨rfl, rfl, rfl, rfl, rfl⟩

/-! #### Stop reasons -/

theorem stop_error_not_mem_runTop (r : RunProgress) (s : State) : Event.stop .error ∉ (runTop r s).2 := by
  unfold runTop
  split <;> simp

theorem stop_error_not_mem_runAfterStep (r : RunProgress) (t : State) : Event.stop .error ∉ (runAfterStep r t).2 := by
  unfold runAfterStep
  split <;> simp

/-- Only a step that fails would stop a run with reason error, and none does (R96). -/
theorem stop_error_not_mem_runTickWith (q : Nat) (s : State) : Event.stop .error ∉ (runTickWith q s).2 := by
  cases hr : s.run with
  | none =>
    rw [runTickWith_of_none hr]
    exact List.not_mem_nil
  | some r =>
    cases hphase : r.phase with
    | top =>
      rw [runTickWith_of_top hr hphase]
      exact stop_error_not_mem_runTop r s
    | boundary =>
      rw [runTickWith_of_boundary hr hphase]
      exact List.not_mem_nil
    | batch =>
      by_cases hused : r.used < q
      · obtain ⟨t, ht⟩ := exists_step_eq_next s
        rw [runTickWith_of_lt hr hphase hused ht]
        exact stop_error_not_mem_runAfterStep r t
      · rw [runTickWith_of_not_lt hr hphase hused]
        simp

/-- Settles O53: by induction on the number of transitions. -/
theorem errorIsNeverAStopReason : Obligations.ErrorIsNeverAStopReason := by
  intro k
  induction k with
  | zero => exact fun _ => List.not_mem_nil
  | succ k ih => exact fun s => List.not_mem_append (stop_error_not_mem_runTickWith _ s) (ih _)

end Sys2Proof.Machine
end

section
/-! ### A run to the break is stepping to the break -/

namespace Sys2Proof.Machine

/-- No run is in progress and no halt is requested. -/
structure Idle (s : State) : Prop where
  running : s.running = false
  run : s.run = none
  haltRequested : s.haltRequested = false

theorem Idle.of_step {s t : State} (h : Idle s) (ht : step s = .next t) : Idle t := by
  obtain ⟨-, -, -, hrunning, hhalt, hrun⟩ := exec_frame ht
  exact ⟨hrunning.trans h.running, hrun.trans h.run, hhalt.trans h.haltRequested⟩

/-- The state seen from inside a run with break-stop and no halt request, at a given point of its loop. -/
def State.duringRun (s : State) (used : Nat) (phase : RunPhase) : State :=
  s.withRunControl true false (some ⟨true, used, phase⟩)

theorem Idle.stopRun_duringRun {s : State} (h : Idle s) (used : Nat) (phase : RunPhase) :
    (s.duringRun used phase).stopRun = s := by
  obtain ⟨hrunning, hrun, hhalt⟩ := h
  calc (s.duringRun used phase).stopRun
      _ = s.withRunControl false false none := rfl
      _ = s.withRunControl s.running s.haltRequested s.run := by rw [hrunning, hrun, hhalt]
      _ = s := rfl

theorem Idle.runStart_true {s : State} (h : Idle s) : runStart true s = .ok (s.duringRun 0 .top) := by
  rw [runStart_of_not_running true h.running, State.duringRun, ← h.haltRequested]
  rfl

/-- With no host action, the run reaches the second state from the first, and its last event is the stop at a break. -/
def RunsToBreak (s u : State) : Prop := ∃ k events, runTicks k s = (u, events ++ [.stop .break_])

theorem runsToBreak_of_stop {s u : State} {r : StepResult} (h : runTick s = (u, [.step r, .stop .break_])) :
    RunsToBreak s u :=
  ⟨1, [.step r], by rw [runTicks, h]; rfl⟩

theorem RunsToBreak.of_runTick {s t u : State} {es : List Event} (h : runTick s = (t, es)) (ht : RunsToBreak t u) :
    RunsToBreak s u := by
  obtain ⟨k, events, hk⟩ := ht
  exact ⟨k + 1, es ++ events, by rw [runTicks, h, hk, List.append_assoc]⟩

section

variable {s t u : State} {used : Nat}

/-! #### The transitions -/

theorem runTick_top : runTick (s.duringRun used .top) = (s.duringRun 0 .batch, []) := rfl

theorem runTick_boundary : runTick (s.duringRun used .boundary) = (s.duringRun used .top, []) := rfl

theorem runTick_of_not_lt (hused : ¬ used < Config.batchQuota) :
    runTick (s.duringRun used .batch) = (s.duringRun used .boundary, [.batch]) :=
  runTickWith_of_not_lt (r := ⟨true, used, .batch⟩) rfl rfl hused

theorem runTick_of_lt (hused : used < Config.batchQuota) (ht : step s = .next t) :
    runTick (s.duringRun used .batch) = if t.result.brk
      then ((t.duringRun used .batch).stopRun, [.step t.result, .stop .break_])
      else (t.duringRun (used + t.result.cycles) .batch, [.step t.result]) :=
  (runTickWith_of_lt (r := ⟨true, used, .batch⟩) rfl rfl hused (step_withRunControl ht ..)).trans
    (if_congr (Eq.congr_left (Bool.and_true _)) rfl rfl)

theorem runTick_of_brk (hused : used < Config.batchQuota) (ht : step s = .next t) (hidle : Idle t)
    (hbrk : t.result.brk = true) : runTick (s.duringRun used .batch) = (t, [.step t.result, .stop .break_]) := by
  rw [runTick_of_lt hused ht, if_pos hbrk, hidle.stopRun_duringRun]

theorem runTick_of_not_brk (hused : used < Config.batchQuota) (ht : step s = .next t) (hbrk : ¬ t.result.brk = true) :
    runTick (s.duringRun used .batch) = (t.duringRun (used + t.result.cycles) .batch, [.step t.result]) := by
  rw [runTick_of_lt hused ht, if_neg hbrk]

/-! #### The batches in between -/

/-- A batch whose quota is reached ends, and the next begins with no cycles used, below the quota, which is at
least 1; the machine is left alone. -/
theorem runsToBreak_of_lt (hlt : ∀ used < Config.batchQuota, RunsToBreak (s.duringRun used .batch) u) (used : Nat) :
    RunsToBreak (s.duringRun used .batch) u := by
  by_cases hused : used < Config.batchQuota
  · exact hlt used hused
  · have hfresh : RunsToBreak (s.duringRun 0 .batch) u := hlt 0 (Nat.succ_pos _)
    exact .of_runTick (runTick_of_not_lt hused) (.of_runTick runTick_boundary (.of_runTick runTick_top hfresh))

end

/-! #### The steps to the break -/

theorem breakAfter_zero {s t : State} (ht : step s = .next t) :
    breakAfter 0 s = if t.result.brk then some t else none := by
  rw [breakAfter, ht]

theorem breakAfter_succ {s t : State} (n : Nat) (ht : step s = .next t) :
    breakAfter (n + 1) s = if t.result.brk then none else breakAfter n t := by
  rw [breakAfter, ht]

/-- From any point of a batch, by induction on the steps before the break. -/
theorem Idle.runsToBreak_of_breakAfter {n : Nat} {s u : State} (h : Idle s) (hbreak : breakAfter n s = some u)
    (used : Nat) : RunsToBreak (s.duringRun used .batch) u := by
  induction n generalizing s used with
  | zero =>
    obtain ⟨t, ht⟩ := exists_step_eq_next s
    rw [breakAfter_zero ht, Option.ite_none_right_eq_some] at hbreak
    obtain ⟨hbrk, htu⟩ := hbreak
    cases htu
    exact runsToBreak_of_lt (fun _ hused => runsToBreak_of_stop (runTick_of_brk hused ht (h.of_step ht) hbrk)) used
  | succ n ih =>
    obtain ⟨t, ht⟩ := exists_step_eq_next s
    rw [breakAfter_succ n ht, Option.ite_none_left_eq_some] at hbreak
    obtain ⟨hbrk, hrest⟩ := hbreak
    exact runsToBreak_of_lt
      (fun _ hused => .of_runTick (runTick_of_not_brk hused ht hbrk) (ih (h.of_step ht) hrest _)) used

/-- Settles O54: a started run stands at the top of a batch, and goes on to the break from there. -/
theorem breakBoundedRunIsSteppingToTheBreak : Obligations.BreakBoundedRunIsSteppingToTheBreak := by
  intro n s u hrunning hrun hhalt hbreak
  have hidle : Idle s := ⟨hrunning, hrun, hhalt⟩
  obtain ⟨k, events, hk⟩ := RunsToBreak.of_runTick runTick_top (hidle.runsToBreak_of_breakAfter hbreak 0)
  exact ⟨s.duringRun 0 .top, k, events, hidle.runStart_true, hk⟩

end Sys2Proof.Machine
end
